-- ==== Sys2Proof/Word.lean ====
section
/-! DEFINITION. The word types of the model and their plainest arithmetic.
Registers are 64 bits wide (R29) and memory is addressed by bytes, little endian. -/

namespace Sys2Proof

/-- One byte of HBM, host memory, tile SRAM or a message. -/
abbrev Byte := BitVec 8

/-- One register or one lane of the mixer of R107. -/
abbrev Word := BitVec 64

/-- Bits `[lo + w - 1 : lo]` of `v`. -/
def bitsOf (v lo w : Nat) : Nat := (v >>> lo) % 2 ^ w

/-- Bit `k` of `v` as a Bool. -/
def bitOf (v k : Nat) : Bool := v.testBit k

/-- A Bool as the value of a one-bit field. -/
def b2n (b : Bool) : Nat := if b then 1 else 0

/-- `⌈a / b⌉`. -/
def ceilDiv (a b : Nat) : Nat := (a + b - 1) / b

end Sys2Proof
end

