-- ==== Sys2Proof/Machine/Types.lean ====
section
/-! DEFINITION. The types of the commands' operands: what the world outside the block, or a part of the block whose
timing the spec leaves open, brings with a command. -/

namespace Sys2Proof.Machine

/-- The source of a register write (R40). -/
inductive Src
  | host | captain | frontEnd
  deriving DecidableEq, Repr

/-- LAST_SRC code of a source (R40). -/
def Src.code : Src → Nat
  | .host => 0
  | .captain => 1
  | .frontEnd => 2

/-- An aligned register write: 8 bytes, or 4 bytes to one half (R29, R30). `same` holds the register bits that the
hardware updates in the same cycle, the coincidence R35 decides. -/
structure Wr where
  src : Src
  wide : Bool
  hi : Bool
  data : Nat
  same : Nat
  deriving DecidableEq, Repr

/-- What an error check found: nothing, a correctable error, an uncorrectable one. -/
inductive ErrFound
  | none | ce | ue
  deriving DecidableEq, Repr, Inhabited

/-- An op in flight: its context, its buffer's SEQ and its OP_ID. -/
structure OpKey where
  ctx : Nat
  seq : Nat
  id : Nat
  deriving DecidableEq, Repr

/-- An error that stands in memory when an access meets it. In HBM: the sector's device address, the 16-bit symbols of its
code word in error (R279), and the controller's number of the DRAM row (R284). In a tile's SRAM: the byte address and the bits
of the 64-bit word in error (R285). -/
structure MemErr where
  addr : Nat
  syms : List Nat
  row : Nat
  tile : Option Nat
  deriving DecidableEq, Repr

/-- An error met by a tile-window word (R48, R205, R285): the word of the access, what was found, and in a TMA slot the
word of the slot that holds the error. -/
structure TwErr where
  k : Nat
  found : ErrFound
  bad : Nat
  deriving DecidableEq, Repr

/-- An error met by a write of a configuration load: the slot, what was found, the word of the slot in error (R205). -/
structure SlotErr where
  slot : Nat
  found : ErrFound
  bad : Nat
  deriving DecidableEq, Repr

/-- Bits of a TMA slot that stand in error when a search meets them: what they change in each field (R205). -/
structure SlotFlip where
  tile : Nat
  slot : Nat
  key : Nat
  mask : Nat
  leaf : Nat
  gen : Nat
  valid : Bool
  deriving DecidableEq, Repr

/-- What the residue check of a block pair compares (R118): the twice-values of both blocks with the four sums D_j that the
array formed; the FP8 elements and the block sum as integers in units of their lowest weights; or for each element pair the
two BF16 significands and the product formed. -/
inductive PairCheck
  | q4 (ta tb d : List Int)
  | fp8 (a b : List Int) (sum : Int)
  | bf16 (pairs : List (Nat × Nat × Nat))
  deriving DecidableEq, Repr

/-- A compiled TMA entry of an image (R180 to R183). -/
structure TmaEnt where
  addr : Nat
  key : Nat
  mask : Nat
  leaf : Nat
  gen : Nat
  deriving DecidableEq, Repr

/-- A feature descriptor (R210). -/
structure Feat where
  off : Nat
  ty : Nat
  wideBin : Bool
  nanBin : Nat
  ptr : Nat
  deriving DecidableEq, Repr

/-- Field encodings of R214. -/
inductive Enc
  | t4 | t8 | c16 | raw4
  deriving DecidableEq, Repr

/-- One named field of a tree's key layout: key field, feature, encoding (R214). -/
structure KeyField where
  field : Nat
  feat : Nat
  enc : Enc
  deriving DecidableEq, Repr

/-- A tree: its key layout, the group positions of its bank tiles in chain order, and its slot on a shared bank
(R221, R222), and its depth in edges (R209). -/
structure TreePlan where
  layout : List KeyField
  banks : List Nat
  slot : Option Nat
  depth : Nat
  deriving DecidableEq, Repr

/-- The two leaf regions of a bank tile (R223). -/
structure LeafPlan where
  base0 : Nat
  count0 : Nat
  base1 : Nat
  count1 : Nat
  deriving DecidableEq, Repr

/-- The scoring plan of an image (R209 to R229): outputs, link code, base scores, feature descriptors of 16 bytes, trees, the
binner tile that holds the tables, the leaf regions by group position, rule banks. -/
structure ScorePlan where
  outputs : Nat
  link : Nat
  base : List Nat
  descs : List Nat
  trees : List TreePlan
  binner : Nat
  leaves : List LeafPlan
  ruleBanks : List Nat
  ruleLayout : List KeyField
  stride : Nat
  replicas : Nat
  segments : Nat
  deriving DecidableEq, Repr

/-- An automaton of an image: ID, group positions of its banks, ACCEPT_BASE, and the places of its byte-class map and
action table within a copy (R252, R255). -/
structure AutPlan where
  id : Nat
  banks : List Nat
  acceptBase : Nat
  mapOff : Nat
  actOff : Nat
  deriving DecidableEq, Repr

/-- The pattern plan of an image: its automata, the SRAM bases of the two copies, and the generation of a second copy where
it supplies one (R255). -/
structure PatPlan where
  auts : List AutPlan
  copyBase0 : Nat
  copyBase1 : Nat
  gen1 : Option Nat
  deriving DecidableEq, Repr

/-- A work unit: owner position, output rows and columns, and slice of the reduction in blocks (R72). -/
structure WorkUnit where
  owner : Nat
  row0 : Nat
  rows : Nat
  col0 : Nat
  cols : Nat
  blk0 : Nat
  blks : Nat
  deriving DecidableEq, Repr

/-- The work-unit queues of one op, and the position that encodes each output patch (R72). -/
structure WorkPlan where
  opId : Nat
  units : List WorkUnit
  encode : List Nat
  deriving DecidableEq, Repr

/-- The image segment of one tile: SRAM bytes from offset 0, TMA width and entries, pre-filter, settings. -/
structure TileSeg where
  sram : List Nat
  sramSize : Nat
  width : Nat
  holeStride : Nat
  iter : Nat
  pfSel : List Nat
  pf : List (Nat × Nat × Nat)
  entries : List TmaEnt
  gen : Nat
  outlLog2 : Nat
  customSel : List Nat
  statsEn : Nat
  role : Nat
  trees : Nat
  replica : Nat
  segment : Nat
  firstTree : Nat
  deriving DecidableEq, Repr

/-- A configuration image: the segments in group order, and the plans of its duty. The spec gives images no byte form,
so an image is an operand of the command that loads or checks it. -/
structure Image where
  segs : List TileSeg
  score : Option ScorePlan
  pat : Option PatPlan
  work : List WorkPlan
  /-- header byte KIND of a policy image (R166) -/
  kind : Nat
  /-- header byte GEN of a policy image (R166) -/
  gen : Nat
  /-- CRC-32 of the image's bytes (R175, R472) -/
  crc : Nat
  /-- first failing byte when the checks fail (R472) -/
  errOffset : Nat
  deriving DecidableEq, Repr

/-- A firmware image header as R475 lays it out, with the verdicts of the checks that need the image's bytes and the
fused keys. -/
structure FwHead where
  magicOk : Bool
  hdrVersion : Nat
  keyIndex : Nat
  version : Nat
  build : Nat
  svn : Nat
  length : Nat
  /-- the digest of PUBKEY equals the digest fused in slot KEY_INDEX -/
  keyOk : Bool
  /-- the ECDSA P-384 signature is valid -/
  sigOk : Bool
  /-- BODY_DIGEST matches the body -/
  bodyOk : Bool
  deriving DecidableEq, Repr

/-- A part found failed: KIND and ID of R517 with DETAIL. -/
structure PartFail where
  kind : Nat
  typ : Nat
  id : Nat
  detail : Nat
  deriving DecidableEq, Repr

/-- What the boot tests and the fitness scan find (R65 to R67, R273, R274). -/
structure ScanFinding where
  /-- tiles (17-bit IDs, bench tiles included) that fail the scan -/
  tiles : List Nat
  /-- dies with a failed router or bridge -/
  dies : List Nat
  stackIds : List Nat
  hubs : List Nat
  /-- link ports: 0 up, 1 down, 2 no peer -/
  links : List Nat
  eths : List Nat
  deriving DecidableEq, Repr

/-- A junction or rail reading of one island (R532): island ID, millivolts, the four junction sensors in °C. -/
structure IslandReading where
  island : Nat
  mv : Nat
  temps : List Nat
  deriving DecidableEq, Repr

/-- The outcome of link training (R409). -/
inductive TrainResult
  | up (peer : Nat)
  | miswired (peer : Nat)
  | noPeer
  deriving DecidableEq, Repr

/-- The faults that the block's own checks raise outside any modelled op: TYPE, the duty of the tile concerned (0 for none),
source island, payload. -/
structure FaultIn where
  typ : Nat
  duty : Nat
  src : Nat
  payload : List Nat
  deriving DecidableEq, Repr

/-- A vote as it travels (R417). -/
structure Vote where
  member : Nat
  step : Nat
  scope : Nat
  ready : Bool
  epoch : Nat
  deriving DecidableEq, Repr

/-- The content of a commit decision (R378). -/
inductive Verdict
  | commit | abort
  deriving DecidableEq, Repr

end Sys2Proof.Machine
end

