-- ==== Sys2Proof/Syntax.lean ====
section
/-! DEFINITION. The commands: one constructor for each row of the operation table, with what the row brings from outside. -/

namespace Sys2Proof

open Sys2Proof.Machine

/-- A command to the block, or an event inside it whose moment the spec leaves to timing. -/
inductive Instr
  /-- REG_WRITE (R32): A host or Captain write to a register that has no row of its own updates each field according to its type, width, lock and source rules. -/
  | regWrite (bar : Nat) (off : Nat) (size : Nat) (w : Wr)
  /-- RATE_LIMIT_WINDOW_END (R38): The 1 ms window of LOCK_VIOLATION or REF_DENY ends, and any pending folded record is posted and a new window opens. -/
  | rateLimitWindowEnd (deny : Bool)
  /-- BAR4_READ (R439): A host read through the BAR4 window returns device memory, correcting, poisoning or refusing reserved addresses as the error rules give. -/
  | bar4Read (off : Nat) (size : Nat) (errs : List MemErr)
  /-- BAR4_WRITE (R439): A host write through the BAR4 window reaches device memory, or is dropped for a reserved address or a partial write to a poisoned sector. -/
  | bar4Write (off : Nat) (bytes : List Nat) (errs : List MemErr)
  /-- TW_GO (R44): A write of TW_CMD.GO starts one tile-window access with the current target and command, or sets REJECT while BUSY. -/
  | twGo (w : Wr)
  /-- TW_ACCESS_DONE (R48): A tile-window access completes with its data words, error code and an advance of SEQ. -/
  | twAccessDone (errs : List TwErr)
  /-- TMA_ICURSOR_WRITE (R202): A write of TMA_ICURSOR starts an iterate-mode search of the key in TMA_IKEY for the match of the given rank. -/
  | tmaIcursorWrite (tile : Nat) (k : Nat) (flips : List SlotFlip)
  /-- TMA_ITER_DONE (R203): The iterate-mode search completes, TMA_IRESULT shows its snapshot result and BUSY clears. -/
  | tmaIterDone (tile : Nat)
  /-- SUBQ_ENABLE (R298): A write of SUBQ_CTRL.EN from 0 to 1 samples the ring base and size and sets SUBQ_HEAD to SUBQ_TAIL. -/
  | subqEnable (w : Wr)
  /-- SUBQ_DISABLE (R298): A write of SUBQ_CTRL.EN 0 stops descriptor fetch at the next descriptor boundary. -/
  | subqDisable (w : Wr)
  /-- SUBQ_TAIL_WRITE (R299): A write of the SUBQ_TAIL doorbell publishes descriptors, or sets RING_ERR when the count exceeds the ring size. -/
  | subqTailWrite (w : Wr)
  /-- DESCRIPTOR_CHECK (R300): The front end reads the next submission descriptor, checks it and advances SUBQ_HEAD. -/
  | descriptorCheck (hostErr : Bool)
  /-- BUFFER_CHECK (R317): The front end fetches an accepted descriptor's command buffer whole and applies checks 1 to 12, accepting the buffer or failing its context. -/
  | bufferCheck (imgs : List (Nat × Image)) (hostErr : Bool) (errs : List MemErr)
  /-- OP_STAGE (R319): The front end stages an op into the on-deck slot of its unit once predecessors, admission, stream contexts and trees allow. -/
  | opStage (key : OpKey)
  /-- OP_DISPATCH (R320): A ready staged op starts running, reads its INDIRECT slots, resolves SLOTTED operands, samples DET and the step counter and starts its timeout clock. -/
  | opDispatch (key : OpKey) (errs : List MemErr)
  /-- OP_COMPLETE (R322): A running op completes, signals its staged dependants and, when its buffer completes, advances SB_DONE_SEQ. -/
  | opComplete (key : OpKey)
  /-- OP_TIMEOUT (R328): An op's running time exceeds its context's LIMIT_MS, raising a class D fault that sounds the whistle. -/
  | opTimeout (key : OpKey)
  /-- QUIET_TIMEOUT (R328): A discard order that has not produced quiet within LIMIT_MS raises a class D fault. -/
  | quietTimeout (ctx : Nat)
  /-- CONTEXT_FAULT (R492): A class Q fault on a context sends a discard order for all its work and moves it to ERROR. -/
  | contextFault (ctx : Nat) (cause : FaultIn)
  /-- CONTEXT_QUIET (R296): The last engine reports quiet for a context, releasing a dugout to FREE or returning context 0 from ERROR to ACTIVE. -/
  | contextQuiet (ctx : Nat)
  /-- MATMUL (R312): A MATMUL op multiplies A by B into C on its tile group with exact block products and FP32 accumulation. -/
  | matmul (key : OpKey) (errs : List MemErr)
  /-- RESIDUE_REPLAY (R121): A block pair whose residue check mismatched is re-formed from its operand registers and checked again. -/
  | residueReplay (tile : Nat) (chk : PairCheck)
  /-- STEAL_REQUEST (R74): A tile with no unit left for an eligible op requests and takes unstarted units from another tile of its group. -/
  | stealRequest (key : OpKey) (pos : Nat)
  /-- STOLEN_UNIT_RESULT (R75): A thief's partial sum for a stolen unit arrives at the owner and is added to its accumulator. -/
  | stolenUnitResult (key : OpKey) (unit : Nat) (after : Nat)
  /-- DISPATCH (R86): A DISPATCH op routes selection entries through the TMA map into per-bucket gather lists, counts and spills. -/
  | dispatch (key : OpKey) (flips : List SlotFlip) (errs : List MemErr)
  /-- VECTOR (R312): A VECTOR op runs a vector-unit program over its operands in FP32. -/
  | vector (key : OpKey) (maxPos : Nat) (errs : List MemErr)
  /-- CONVERT (R312): A CONVERT op encodes SRC into DST, applying policy decisions, rotation and outliers and writing patch tags. -/
  | convert (key : OpKey) (errs : List MemErr)
  /-- STATS_RECORD (R139): The converter emits a patch's statistics record once a record place is free. -/
  | statsRecord (tile : Nat)
  /-- POLICY_RECORD_SCORE (R159): A policy tile scores a statistics record and writes the patch's entry into the pending decision slot. -/
  | policyRecordScore (die : Nat) (tile : Nat) (flips : List SlotFlip) (errs : List MemErr)
  /-- SHADOW_ENTRY_DONE (R169): The shadow recomputation of a staged sample completes, its entry is written to the calibration log and the staging slot freed. -/
  | shadowEntryDone (tile : Nat) (slot : Nat) (errs : List MemErr)
  /-- MOVE_COPY (R342): A MOVE in COPY mode moves bytes from SRC to DST, as a producer or consumer of a semaphore pair where ROLE says. -/
  | moveCopy (key : OpKey)
  /-- CURATE_SCORE (R348): A MOVE in CURATE_SCORE mode packs the records kept by a SCORE flag ring into DST with their weights. -/
  | curateScore (key : OpKey) (errs : List MemErr)
  /-- CURATE_PATTERN (R348): A MOVE in CURATE_PATTERN mode packs the records kept by a PATTERN summary ring into DST. -/
  | curatePattern (key : OpKey) (errs : List MemErr)
  /-- CURATE_ENTRY (R348): A curation op consumes the next flag entry once its ring's DONE covers it. -/
  | curateEntry (key : OpKey) (errs : List MemErr)
  /-- RELAY (R351): A RELAY op reads SRC once and passes it along its tile chain into each tile's SRAM. -/
  | relay (key : OpKey) (errs : List MemErr)
  /-- SEM_SIGNAL (R345): A SEM_SIGNAL op adds COUNT to a semaphore of its pair and completes. -/
  | semSignal (key : OpKey)
  /-- SEM_WAIT (R345): A SEM_WAIT op begins waiting to take COUNT from a semaphore. -/
  | semWait (key : OpKey)
  /-- SEMAPHORE_TAKE (R345): A waiting taker is served its whole count in wait order and proceeds. -/
  | semaphoreTake (ctx : Nat) (seq : Nat) (pair : Nat) (sem : Nat)
  /-- BURST_ISSUE (R338): The stream engine issues a burst of transfer descriptors within the outstanding limit. -/
  | burstIssue (key : OpKey) (errs : List MemErr) (stackFail : Option Nat)
  /-- TRANSFER_LANDED (R337): A transfer lands at its destination, lowering its stream's outstanding count. -/
  | transferLanded (key : OpKey) (idx : Nat) (hostErr : Bool) (errs : List MemErr)
  /-- HUDDLE (R352): A HUDDLE op arrives at the barrier on each tile of its group. -/
  | huddle (key : OpKey)
  /-- HUDDLE_RELEASE (R353): A huddle releases when every participant has arrived, and all participant ops complete. -/
  | huddleRelease (key : OpKey) (held : Nat) (mhz : Nat)
  /-- NOP (R311): A SYNC NOP op completes without effect. -/
  | nop (key : OpKey)
  /-- TILE_CONFIG (R59): A TILE_CONFIG op sets the duty of its group's tiles and starts loading their configuration image. -/
  | tileConfig (key : OpKey) (img : Image) (errs : List MemErr)
  /-- LOAD_POLICY (R166): A LOAD_POLICY op loads a FULL policy image onto its tiles or stages a STAGE image under a new generation. -/
  | loadPolicy (key : OpKey) (img : Image) (errs : List MemErr)
  /-- IMAGE_LOAD_DONE (R61): A tile finishes loading its image, runs its TMA self-test and becomes READY or IDLE, judging any on-deck op. -/
  | imageLoadDone (tile : Nat) (pass : Bool) (errs : List SlotErr)
  /-- TMA_EDIT (R197): A TMA_EDIT op applies a list of edit items to its group's banks, directly or in band with a running stream. -/
  | tmaEdit (key : OpKey) (errs : List MemErr)
  /-- INVAL (R196): An INVAL edit item invalidates one entry on its target banks. -/
  | inval (tile : Nat) (found : ErrFound)
  /-- WRITE (R196): A WRITE edit item writes KEY, MASK and control fields of one slot on its target banks. -/
  | write (tile : Nat) (found : ErrFound)
  /-- VALID (R196): A VALID edit item validates one entry and computes its LEN. -/
  | valid (tile : Nat) (found : ErrFound)
  /-- PF (R196): A PF edit item writes one row group's pre-filter register. -/
  | pf (tile : Nat)
  /-- PF_SEL (R196): A PF_SEL edit item writes a pre-filter selector register. -/
  | pfSel (tile : Nat)
  /-- FLIP (R200): A FLIP edit item switches the bank's active generation at its list position or record boundary. -/
  | flip (tile : Nat)
  /-- AUX_WRITE (R255): An AUX_WRITE edit item writes the unused byte-class and action copy of a pattern bank and tags its generation. -/
  | auxWrite (tile : Nat)
  /-- TMA_SCRUB (R205): The TMA scrubber checks one slot, correcting single-bit errors and invalidating entries with double-bit errors. -/
  | tmaScrub (tile : Nat) (slot : Nat) (found : ErrFound)
  /-- SRAM_SCRUB (R286): A tile scrubs one SRAM word in a free bank slot. -/
  | sramScrub (tile : Nat) (word : Nat) (found : ErrFound)
  /-- HBM_PATROL_SCRUB (R283): The patrol scrubber reads a sector in an idle cycle, correcting or poisoning it. -/
  | hbmPatrolScrub (err : MemErr)
  /-- HBM_REFRESH (R287): The controller refreshes a channel bank at the interval its stack temperature sets. -/
  | hbmRefresh (stack : Nat) (channel : Nat)
  /-- SCORE (R232): A SCORE op starts one segment of one replica of a scoring stream. -/
  | score (key : OpKey) (errs : List MemErr)
  /-- SCORE_RECORD (R224): A replica bins, keys, searches and sums one record and applies base and link to produce its outputs. -/
  | scoreRecord (key : OpKey) (replica : Nat) (flipped : List (Nat × Nat)) (flips : List SlotFlip) (errs : List MemErr)
  /-- SCORE_RESULT_DELIVER (R239): The stream writes a record's result entry in record order, then DONE and CONS, once its ring has room. -/
  | scoreResultDeliver (key : OpKey) (errs : List MemErr)
  /-- RING_TAIL_POLL (R235): A stream stalled on a host result ring re-reads TAIL every POLL microseconds. -/
  | ringTailPoll (key : OpKey) (errs : List MemErr)
  /-- PATTERN (R257): A PATTERN op starts one pattern stream over its automata and lanes. -/
  | pattern (key : OpKey) (errs : List MemErr)
  /-- LANE_RECORD_START (R262): The lowest free lane takes the next record and starts in state 0. -/
  | laneRecordStart (key : OpKey) (errs : List MemErr)
  /-- PATTERN_BYTE (R256): A lane's byte or END search result yields the next state and applies accepting-state actions. -/
  | patternByte (key : OpKey) (lane : Nat) (flips : List SlotFlip)
  /-- LANE_FLUSH (R267): A lane in FLUSH writes the record's scrubbed copy, reports and summary, then DONE words and CONS, and becomes FREE. -/
  | laneFlush (key : OpKey) (lane : Nat) (errs : List MemErr)
  /-- REDUCE_SCATTER (R422): A REDUCE_SCATTER op exchanges contributions and writes this rank's reduced shard. -/
  | reduceScatter (key : OpKey) (errs : List MemErr)
  /-- ALL_REDUCE (R422): An ALL_REDUCE op reduces every shard at its rank and distributes the encoded results to all ranks. -/
  | allReduce (key : OpKey) (errs : List MemErr)
  /-- ALL_GATHER (R422): An ALL_GATHER op distributes each rank's shard to every rank. -/
  | allGather (key : OpKey) (errs : List MemErr)
  /-- STRAGGLER_DEADLINE (R385): A shard's contribution deadline expires at the reducing rank, which reduces the on-time contributions under the op's straggler mode. -/
  | stragglerDeadline (key : OpKey) (shard : Nat) (errs : List MemErr)
  /-- STEP_COMMIT (R376): A STEP_COMMIT op forms this module's vote and sends it to the commit root. -/
  | stepCommit (key : OpKey)
  /-- VOTE (R378): A vote reaches the commit root, which decides COMMIT or ABORT when its conditions are met. -/
  | vote (v : Vote)
  /-- VOTE_DEADLINE (R378): DEADLINE_US pass at the root after the first vote without a COMMIT, and it decides ABORT. -/
  | voteDeadline
  /-- DECISION (R380): A commit decision reaches a member, which flips, prepares or aborts the step. -/
  | decision (verdict : Verdict) (ready : Nat) (missing : Nat)
  /-- DECISION_TIMEOUT (R379): A member that holds no decision 2 × DEADLINE_US after its vote enters IN_DOUBT. -/
  | decisionTimeout
  /-- SC_RESOLVE_COMMIT (R383): A write of SC_RESOLVE.COMMIT resolves a PREPARED or IN_DOUBT step as committed. -/
  | scResolveCommit (w : Wr)
  /-- SC_RESOLVE_ABORT (R383): A write of SC_RESOLVE.ABORT resolves a PREPARED or IN_DOUBT step as aborted. -/
  | scResolveAbort (w : Wr)
  /-- STEP_STATE_WRITE (R366): A write of the step counter, seed, TRAIN_CTX or REPLAY is accepted and journalled while PHASE is OPEN, and otherwise dropped. -/
  | stepStateWrite (off : Nat) (w : Wr)
  /-- DET_WRITE (R370): A write of GLOBAL_MODE.DET changes determinism mode for ops dispatched afterwards. -/
  | detWrite (w : Wr)
  /-- SNAPSHOT (R390): A SNAPSHOT op pins the committed slot and streams its regions as RDMA writes to a remote store. -/
  | snapshot (key : OpKey) (errs : List MemErr)
  /-- SNAPSHOT_COMPLETE (R392): Every snapshot write is acknowledged, STATUS is written and the pin released. -/
  | snapshotComplete (key : OpKey) (acked : Nat) (errs : List MemErr)
  /-- JOURNAL_WRITE (R396): A journal entry is written to the reserve ring and, when enabled and room exists, to the host ring. -/
  | journalWrite
  /-- SET_SHARE (R313): A SET_SHARE op sets a context's share, stream and outstanding quotas. -/
  | setShare (key : OpKey)
  /-- DESTROY_CONTEXT (R329): A DESTROY_CONTEXT op moves its target to DUGOUT and sends discard orders to all its work. -/
  | destroyContext (key : OpKey) (failing : Option (Nat × Nat × Nat))
  /-- MAP_HANDLE (R314): A MAP_HANDLE op installs or replaces a relocation entry. -/
  | mapHandle (key : OpKey)
  /-- UNMAP_HANDLE (R314): An UNMAP_HANDLE op removes a relocation entry. -/
  | unmapHandle (key : OpKey)
  /-- PACKAGE_FLIT_RECEIVE (R19): A hop receives a package-network flit, correcting single-bit errors or having it replayed. -/
  | packageFlitReceive (island : Nat) (link : Nat) (found : ErrFound) (replays : Nat)
  /-- FLIT_RECEIVE (R407): A link port receives a flit, accepting it in SEQ order or discarding it and requesting a retry. -/
  | flitReceive (port : Nat) (bytes : List Nat) (fecBad : Bool) (corrected : Nat)
  /-- RETRY (R407): A RETRY flit makes the sender re-send from the named SEQ. -/
  | retry (port : Nat) (seq : Nat) (credit : Nat)
  /-- LINK_SILENCE (R408): No flit arrives on a port for 10 µs, which goes to TRAINING and re-injects its unacknowledged flits. -/
  | linkSilence (port : Nat)
  /-- PORT_RETRAIN (R408): A port in TRAINING is retrained every 1 ms until its peer answers. -/
  | portRetrain (port : Nat)
  /-- PORT_TRAINING_DONE (R409): Link training ends, taking the port UP, or DOWN if miswired. -/
  | portTrainingDone (port : Nat) (result : TrainResult)
  /-- DOWN_NOTICE (R413): A DOWN_NOTICE reaches a neighbour, which takes its port to TRAINING and forwards it to the root. -/
  | downNotice (port : Nat) (module : Nat)
  /-- HEARTBEAT_TIMER (R411): Every 100 µs a member sends a HEARTBEAT with its port-up bits to the root. -/
  | heartbeatTimer
  /-- HEARTBEAT (R411): The root receives a member's heartbeat and updates its port-up bits. -/
  | heartbeat (member : Nat) (ports : Nat)
  /-- MAP_TIMER (R411): Every 100 µs the root broadcasts the membership map. -/
  | mapTimer
  /-- MAP (R411): A member receives a MAP, updates membership and routes, and re-sends unacknowledged collective messages. -/
  | map (root : Nat) (members : List Nat) (ports : List (Nat × Nat)) (epoch : Nat)
  /-- MEMBER_TIMEOUT (R411): The root removes a member that has sent no heartbeat for 300 µs. -/
  | memberTimeout (member : Nat)
  /-- MAP_TIMEOUT (R411): A member receiving no MAP for 300 µs removes the root, and the lowest member takes office. -/
  | mapTimeout
  /-- LINK_JOIN (R414): A write of LINK_CTRL.JOIN sends a JOIN toward the root. -/
  | linkJoin (w : Wr)
  /-- JOIN (R414): The root receives a JOIN and admits the joiner in its next MAP once no vote awaits a decision. -/
  | join (member : Nat) (ports : Nat)
  /-- JOIN_TIMEOUT (R414): A joiner that hears no MAP within 1 ms takes office as root of itself alone. -/
  | joinTimeout
  /-- LINK_LEAVE (R415): A write of LINK_CTRL.LEAVE starts draining a member, or cancels a join. -/
  | linkLeave (w : Wr)
  /-- LEAVE_DRAINED (R415): A leaving module has no collective and no unacknowledged flit, sends LEAVE and enters NONE. -/
  | leaveDrained
  /-- LEAVE (R411): The root receives LEAVE and removes the member. -/
  | leave (member : Nat)
  /-- READY (R426): A rank receives a collective READY and may send its contribution to that rank's shard. -/
  | ready (tag : Nat) (rank : Nat) (det : Bool)
  /-- DATA (R427): A DATA flit of a collective message is placed by OFFSET, and a completed message is acknowledged and reduced. -/
  | data (tag : Nat) (shard : Nat) (rank : Nat) (offset : Nat) (last : Bool) (payload : List Nat) (errs : List MemErr)
  /-- MSG_DONE (R426): A sender receives MSG_DONE for a completed message. -/
  | msgDone (tag : Nat) (shard : Nat) (rank : Nat)
  /-- NACK (R420): A sender receives a NACK for a refused flit or transfer, failing the op that issued it. -/
  | nack (code : Nat) (tag : Nat) (addr : Nat)
  /-- RDMA_WRITE (R454): An inbound RoCE v2 RDMA WRITE is relocated by its RKEY and placed in order, or refused with a NAK. -/
  | rdmaWrite (port : Nat) (qpn : Nat) (rkey : Nat) (off : Nat) (bytes : List Nat) (errs : List MemErr)
  /-- RDMA_READ (R452): An inbound RDMA READ is relocated and answered with device data. -/
  | rdmaRead (port : Nat) (qpn : Nat) (rkey : Nat) (off : Nat) (len : Nat) (errs : List MemErr)
  /-- SEND (R452): An inbound RoCE v2 SEND is received on its queue pair. -/
  | send (port : Nat) (qpn : Nat) (bytes : List Nat)
  /-- ETH_NAK (R456): A NAK received on a queue pair puts it in ERROR. -/
  | ethNak (port : Nat) (qpn : Nat)
  /-- ETH_RETRY_EXHAUSTED (R456): A queue pair that exhausts its seven retries enters ERROR. -/
  | ethRetryExhausted (port : Nat) (qpn : Nat)
  /-- ETH_LINK_LOST (R457): An Ethernet port loses link and returns to TRAINING, or goes DOWN on the third loss within 1 s. -/
  | ethLinkLost (port : Nat)
  /-- ETH_TRAINING_DONE (R457): Ethernet link training succeeds and the port becomes UP. -/
  | ethTrainingDone (port : Nat)
  /-- REF_GRANT_WRITE (R482): A write of REF_GRANT grants ports, which start training, or withdraws them, which go OFF within 1 µs. -/
  | refGrantWrite (w : Wr)
  /-- REF_CLAMP_WRITE (R484): A write of REF_CLAMP lowers the power or junction clamp, raising it being refused. -/
  | refClampWrite (w : Wr)
  /-- REF_POWER_SAMPLE (R483): Every 10 µs the Referee samples input power and forces or releases floor clock against P_MAX_W. -/
  | refPowerSample (watts : Nat)
  /-- SENSOR_SAMPLE (R532): Every 1 µs subsystem 15 measures island voltages and junctions and applies thermal and neighbour holds. -/
  | sensorSample (readings : List IslandReading) (neighbours : List (Nat × Nat)) (stackTemps : List (Nat × Nat))
  /-- GOVERNOR_PERIOD (R526): Every 100 µs the governor compares mean power with its target and steps the common clock, dither level and ceilings. -/
  | governorPeriod
  /-- DITHER_SLOT (R527): Each 10 µs slot holds or releases compute islands according to the dither level. -/
  | ditherSlot
  /-- MARGIN_TRIM (R545): The voltage trim of an island is stepped from its delay monitors, lowering or holding it when margin stays short. -/
  | marginTrim (island : Nat) (short : Bool)
  /-- LANE_MARGIN_CHECK (R544): Every 1 ms each link and Ethernet lane's eye margin is measured while equalisation adapts. -/
  | laneMarginCheck (eth : Bool) (port : Nat) (lane : Nat) (low : Bool)
  /-- CAP_WRITE (R528): A write of PWR_CTRL.CAP_W sets the power cap from the next governor period, clamping it to 1,150 W. -/
  | capWrite (w : Wr)
  /-- GATE_REQUEST (R539): A PWR_GATE GO with UP 0 starts draining an idle island or die, or is refused. -/
  | gateRequest (w : Wr)
  /-- ISLAND_DRAIN_DONE (R540): A draining island's crossings are drained and fenced, its rail turns off and it becomes GATED. -/
  | islandDrainDone (island : Nat)
  /-- UNGATE_REQUEST (R541): A PWR_GATE GO with UP 1 starts ramping a gated island. -/
  | ungateRequest (w : Wr)
  /-- UNGATE_RAMP_DONE (R541): The ungating island's rail and clock are up and it becomes RUN or HELD with IDLE tiles. -/
  | ungateRampDone (island : Nat)
  /-- PENDING_GEN_WRITE (R176): A write of POLICY_CTRL.PENDING_GEN sets or clears FLIP_PENDING. -/
  | pendingGenWrite (w : Wr)
  /-- SB_NOTIFY_ARM (R443): A write of SB_NOTIFY_CTRL.ARM arms a scoreboard notification, firing at once if its condition holds. -/
  | sbNotifyArm (ctx : Nat) (w : Wr)
  /-- EVQ_ENABLE (R448): Enabling the event ring samples its base and size and sets EVQ_HEAD to EVQ_TAIL. -/
  | evqEnable (w : Wr)
  /-- EVQ_RECORD_WRITE (R449): The device writes the next alarm, overflow or event record to the event ring when room allows. -/
  | evqRecordWrite
  /-- COALESCE_WINDOW_END (R509): A coalescing window ends, posting its pending record or closing the key's window. -/
  | coalesceWindowEnd (typ : Nat) (src : Nat) (hasCtx : Bool) (ctx : Nat)
  /-- HALL_ALARM_SEND (R511): Within the ALARM_PER_S rate the oldest unsent alarm goes to the hall as a PLDM event message. -/
  | hallAlarmSend
  /-- TRACE_ENABLE (R520): A write of FLT_TRC_CTRL.EN from 0 to 1 samples the trace ring base and size and zeroes HEAD and TAIL. -/
  | traceEnable (w : Wr)
  /-- MB_DOORBELL_IN (R464): A write of MB_DOORBELL.IN submits the request in MB_IN, or is rejected while IN_BUSY. -/
  | mbDoorbellIn (w : Wr)
  /-- MB_ACCEPT (R466): The Captain copies a submitted request into its queue, logs it and frees MB_IN. -/
  | mbAccept
  /-- MB_RESPONSE (R464): Once MB_OUT is free the Captain writes a queued response, sets OUT_VALID and sends vector 1. -/
  | mbResponse
  /-- MB_DOORBELL_ACK (R466): A write of MB_DOORBELL.ACK releases MB_OUT. -/
  | mbDoorbellAck (w : Wr)
  /-- GET_VERSION (R468): The Captain answers with the running firmware version, slot and fallback. -/
  | getVersion (idx : Nat)
  /-- CTX_CREATE (R469): The Captain creates the lowest FREE context with the given attributes and makes it ACTIVE. -/
  | ctxCreate (idx : Nat)
  /-- CTX_SET_QUOTA (R470): The Captain sets an ACTIVE context's quotas as a SET_SHARE would. -/
  | ctxSetQuota (idx : Nat)
  /-- CTX_SET_TIMEOUT (R470): The Captain sets a context's LIMIT_MS. -/
  | ctxSetTimeout (idx : Nat)
  /-- QP_CREATE (R471): The Captain creates the lowest free queue pair on a port for a context and puts it in READY. -/
  | qpCreate (idx : Nat)
  /-- QP_FREE (R471): The Captain frees a queue pair that no running op uses. -/
  | qpFree (idx : Nat)
  /-- IMAGE_CHECK (R472): The Captain checks an image as its loading op would and returns its CRC and tile count. -/
  | imageCheck (idx : Nat) (img : Image)
  /-- CAL_CONFIG (R473): The Captain writes the calibration staging, log and owner settings and sets CAL_EN. -/
  | calConfig (idx : Nat)
  /-- CAL_REFIT (R474): The Captain refits the active policy's leaves from the calibration log and writes a STAGE image. -/
  | calRefit (idx : Nat)
  /-- FW_UPDATE (R477): The Captain verifies a firmware image and writes it to the slot not booted, making it preferred. -/
  | fwUpdate (idx : Nat) (head : FwHead)
  /-- FW_SVN_COMMIT (R477): The Captain raises the fused minimum security version. -/
  | fwSvnCommit (idx : Nat)
  /-- BLACKBOX_READ (R468): The Captain returns bytes of the black box. -/
  | blackboxRead (idx : Nat)
  /-- WDOG_KICK (R486): A Captain write of REF_WDOG.KICK restarts the watchdog period. -/
  | wdogKick (w : Wr)
  /-- WDOG_EXPIRY (R486): PERIOD_MS elapse without a kick and the Captain is restarted. -/
  | wdogExpiry
  /-- CAPTAIN_RESTART_DONE (R486): A watchdog restart completes, the Captain runs again and finishes logged requests. -/
  | captainRestartDone (ok : Bool)
  /-- WHISTLE (R500): A class D fault sounds the whistle, stops every island, records the cause and queues the alarm. -/
  | whistle (cause : FaultIn)
  /-- WHOLE_DEVICE_RESET (R501): The device resets, keeping and returning state as given, and starts a reset boot. -/
  | wholeDeviceReset
  /-- BLACKBOX_STORE (R513): The Captain stores captured entries, failures and maps in the black box in boot flash. -/
  | blackboxStore
  /-- PWRGD_RISE (R558): PWRGD rises, straps are sampled and the standby converter and control-die island 3 start. -/
  | pwrgdRise (addr : Nat) (refclkSel : Nat)
  /-- RAILS_UP (R558): Every module rail reaches regulation and STAGE reads STANDBY. -/
  | railsUp
  /-- PWRGD_FALL (R560): PWRGD falls, every island stops and every output is released without a whistle. -/
  | pwrgdFall
  /-- PERST_ASSERT (R559): PERST_N asserts, causing a whole-device reset and returning STAGE to STANDBY. -/
  | perstAssert
  /-- PERST_RELEASE (R558): PERST_N is released and the boot ROM starts verifying firmware. -/
  | perstRelease
  /-- PCIE_HOT_RESET (R436): A PCIe Hot Reset or link-down is handled as a whole-device reset. -/
  | pcieHotReset
  /-- FW_VERIFY_DONE (R476): The boot ROM finishes verifying the firmware slots and boots one or fails the boot. -/
  | fwVerifyDone (aOk : Bool) (bOk : Bool) (ms : Nat)
  /-- FITNESS_SCAN_DONE (R66): The boot fitness scan assigns bench tiles and fences parts, publishes the fitness map and ends the boot READY or UNFIT. -/
  | fitnessScanDone (found : ScanFinding) (ms : Nat)
  /-- PLDM_REQUEST (R555): A PLDM request carried over MCTP on the management I2C bus reaches the module, which answers it once FW_READY reads 1. -/
  | pldmRequest (sensor : Nat)
  /-- REFUSED_REGISTER_READ (R29): A host read of a register of the wrong width or alignment returns 0 and increments HI_ACCESS_ERR.COUNT. -/
  | refusedRegisterRead (bar : Nat) (off : Nat) (size : Nat)
  /-- ROCE_RETRANSMISSION (R452): A RoCE v2 retransmission timer expires on a queue pair, and the device re-sends the unacknowledged packets and counts them in RETRANS. -/
  | roceRetransmission (port : Nat) (packets : Nat)
  /-- ARP_REQUEST (R451): An inbound ARP request or IPv6 neighbour solicitation for a port's own address is answered with a reply. -/
  | arpRequest (port : Nat) (own : Bool)
  /-- PRIORITY_FLOW_CONTROL_FRAME (R451): An inbound IEEE 802.1Qbb priority flow control frame pauses or resumes transmission on the priorities of PFC_MASK. -/
  | priorityFlowControlFrame (port : Nat) (mask : Nat)
  deriving DecidableEq, Repr

end Sys2Proof
end

