-- ==== Sys2Proof/Machine/Maps.lean ====
section
/-! DEFINITION. Sparse maps kept in one canonical form, keys strictly rising, and the byte memories built on them. -/

namespace Sys2Proof.Machine

/-- The entry of key `k`, if listed. -/
def mapGet? {α : Type} : List (Nat × α) → Nat → Option α
  | [], _ => none
  | (j, a) :: rest, k => if j = k then some a else mapGet? rest k

/-- The entry of key `k`, or the value of an unlisted key. -/
def mapGet {α : Type} (m : List (Nat × α)) (dflt : α) (k : Nat) : α := (mapGet? m k).getD dflt

/-- `m` with key `k` holding `a`, in key order. -/
def mapSet {α : Type} : List (Nat × α) → Nat → α → List (Nat × α)
  | [], k, a => [(k, a)]
  | (j, b) :: rest, k, a =>
    if k < j then (k, a) :: (j, b) :: rest
    else if j = k then (k, a) :: rest
    else (j, b) :: mapSet rest k a

/-- `m` without key `k`. -/
def mapErase {α : Type} : List (Nat × α) → Nat → List (Nat × α)
  | [], _ => []
  | (j, b) :: rest, k => if j = k then mapErase rest k else (j, b) :: mapErase rest k

/-- Every listed value replaced by `f` of its key and itself; the keys stay. -/
def mapVals {α : Type} (f : Nat → α → α) (m : List (Nat × α)) : List (Nat × α) :=
  m.map fun p => (p.1, f p.1 p.2)

/-- The keys are strictly rising. -/
def keysRising {α : Type} : List (Nat × α) → Bool
  | [] => true
  | [_] => true
  | (j, _) :: (k, b) :: rest => decide (j < k) && keysRising ((k, b) :: rest)

/-- A byte memory: addresses strictly rising, no entry equal to what an unlisted address reads as. -/
abbrev Memory := List Host.Cell

/-- What a byte that nothing has written reads as. DESIGN CHOICE, unsafe: R282 and R291 leave it open (log entry 15). -/
def unlistedByte : Byte := 0

/-- The canonical form of a memory. -/
def Memory.wf (m : Memory) : Bool := keysRising m && m.all fun c => decide (c.2 ≠ unlistedByte)

/-- One byte. -/
def Memory.rdByte (m : Memory) (a : Nat) : Byte := mapGet m unlistedByte a

/-- One byte written; writing the unlisted value removes the entry. -/
def Memory.wrByte (m : Memory) (a : Nat) (b : Byte) : Memory :=
  if b = unlistedByte then mapErase m a else mapSet m a b

/-- `n` bytes from address `a`, as numbers. -/
def Memory.rdBytes (m : Memory) (a : Nat) : Nat → List Nat
  | 0 => []
  | n + 1 => (m.rdByte a).toNat :: m.rdBytes (a + 1) n

/-- Bytes written from address `a` upwards. -/
def Memory.wrBytes (m : Memory) (a : Nat) : List Nat → Memory
  | [] => m
  | b :: bs => (m.wrByte a (BitVec.ofNat 8 b)).wrBytes (a + 1) bs

/-- `n` zero bytes written from address `a`. -/
def Memory.wrZeros (m : Memory) (a n : Nat) : Memory :=
  m.filter fun c => c.1 < a || a + n ≤ c.1

end Sys2Proof.Machine
end

