-- ==== Sys2Proof/Config.lean ====
section
/-! DEFINITION. What the spec leaves open and the machine still has to answer: free values without a body, so that no
proof can see them. Each is named in a log entry. -/

namespace Sys2Proof.Config

/-- An unspecified 64-bit word: the n-th that the machine meets (log entry 2). -/
opaque freeWord : Nat → BitVec 64

/-- What a VECTOR op's results depend on (R5, R369): the op's scalar parameters, the bytes of its program from PROG to the
end of the relocation entries that hold it, the class and length of its tensors, the values it reads, and the seed and step
in force. -/
structure VectorRun where
  nums : List Nat
  program : List (Nat × Nat)
  shapes : List (Nat × Nat × Bool)
  reads : List (List Nat)
  seed : Nat
  step : Nat
  deriving DecidableEq, Repr

/-- The FP32 results that a vector-unit program gives: element `i` of operand `n`; the spec does not give the programs'
instructions (log entry 3). -/
opaque vectorOut : VectorRun → Nat → Nat → BitVec 32

/-- What a code finds in a word whose error is wider than it is built for: more than two symbols of an HBM sector, more than two
bits of an SRAM word (R279, R285, log entry 126). -/
opaque wideError : Machine.MemErr → Machine.ErrFound

/-- Whether the n-th trim of an island that is not short of margin steps its voltage down (R545, log entry 99). -/
opaque trimDown : Nat → Bool

/-- What CAL_REFIT's image depends on: the log entries kept, the active ensemble, ERR_TARGET and GEN (R474). -/
structure Refit where
  kept : List (List Nat)
  ensemble : List Machine.Image
  target : Nat
  gen : Nat
  deriving DecidableEq, Repr

/-- The bytes of the image that CAL_REFIT writes (log entry 4). -/
opaque refitByte : Refit → Nat → BitVec 8

/-- The length of the image that CAL_REFIT writes, and the ENTRIES that its response reports (log entry 4). -/
opaque refitLength : Refit → Nat
opaque refitEntries : Refit → Nat

/-- The FP32 bits of a transcendental result whose rounding the model's search could not settle (log entry 5). -/
opaque hardRound : Nat → Nat → BitVec 32

/-- The way a collective under DET = 0 travels, as the engine chooses it at op start (R430, log entry 6). -/
opaque treeChoice : Nat → Nat

end Sys2Proof.Config
end

