-- ==== Sys2Proof/Machine/Bits.lean ====
section
/-! DEFINITION. Little-endian byte order, decided once, and the CRC-32 of IEEE 802.3. -/

namespace Sys2Proof.Machine

/-- `n` bytes of `v`, least significant first. -/
def leBytes : Nat → Nat → List Nat
  | 0, _ => []
  | n + 1, v => v % 256 :: leBytes n (v / 256)

/-- The number that bytes spell, least significant first. -/
def leNat : List Nat → Nat
  | [] => 0
  | b :: bs => b % 256 + 256 * leNat bs

/-- `n` bytes of a list of bytes from offset `o`, as a number. -/
def leAt (bs : List Nat) (o n : Nat) : Nat := leNat ((bs.drop o).take n)

/-- A little-endian number of `n` bytes read from memory. -/
def Memory.rdLE (m : Memory) (a n : Nat) : Nat := leNat (m.rdBytes a n)

/-- A little-endian number of `n` bytes written to memory. -/
def Memory.wrLE (m : Memory) (a n v : Nat) : Memory := m.wrBytes a (leBytes n v)

/-- A number of `w` bits read as two's complement. -/
def toSigned (v w : Nat) : Int := if v % 2 ^ w < 2 ^ (w - 1) then (v % 2 ^ w : Nat) else (v % 2 ^ w : Nat) - (2 ^ w : Nat)

/-- The two's complement bits of an integer in `w` bits. -/
def ofSigned (v : Int) (w : Nat) : Nat := (v % (2 ^ w : Nat)).toNat

/-- One shift of the reflected CRC-32 register. -/
def crcShift (c : Nat) : Nat := if c % 2 = 1 then (c >>> 1) ^^^ 0xEDB88320 else c >>> 1

/-- The register after one byte. -/
def crcByte (c b : Nat) : Nat :=
  let c0 := c ^^^ (b % 256)
  crcShift (crcShift (crcShift (crcShift (crcShift (crcShift (crcShift (crcShift c0)))))))

/-- CRC-32 of IEEE 802.3 over bytes in order (R70, R175). -/
def crc32 (bs : List Nat) : Nat := (bs.foldl crcByte 0xFFFFFFFF) ^^^ 0xFFFFFFFF

/-- `bs` with the bytes `new` at offset `o`. -/
def patchBytes (bs : List Nat) (o : Nat) (new : List Nat) : List Nat :=
  bs.take o ++ new ++ bs.drop (o + new.length)

/-- `List.range` from `a`, `n` numbers. -/
def span (a n : Nat) : List Nat := (List.range n).map (a + ·)

/-- The element of a list at `k`, or a default. -/
def nth {α : Type} (l : List α) (d : α) (k : Nat) : α := (l[k]?).getD d

/-- The list with element `k` replaced. -/
def setAt {α : Type} (l : List α) (k : Nat) (a : α) : List α := l.set k a

/-- The list with element `k` changed. -/
def modifyAt {α : Type} (l : List α) (k : Nat) (f : α → α) : List α := l.modify k f

/-- Sum of numbers. -/
def sumNat (l : List Nat) : Nat := l.foldl (· + ·) 0

/-- Position of the first element for which `p` holds. -/
def findPos {α : Type} (p : α → Bool) : List α → Option Nat
  | [] => none
  | a :: as => if p a then some 0 else (findPos p as).map (· + 1)

/-- An element put before the first element of a sorted list that it does not come after. -/
def insertBy {α : Type} (le : α → α → Bool) (a : α) : List α → List α
  | [] => [a]
  | b :: bs => if le a b then a :: b :: bs else b :: insertBy le a bs

/-- A list in order, equals in the order in which they stand. -/
def sortBy {α : Type} (le : α → α → Bool) (l : List α) : List α := l.foldr (insertBy le) []

end Sys2Proof.Machine
end

