-- ==== Sys2Proof/Machine/RegTable.lean ====
section
/-! DEFINITION. The register map: every field of every register that the spec lays out, with its place, width, type and reset value (R28, R32). -/

namespace Sys2Proof.Machine

/-- The register types of R32. -/
inductive RegTy
  | ro | rw | w1c | w1s | wo1 | rwl | cnt | hwu | sc
  deriving DecidableEq, Repr

/-- Which values of a field are reserved codes (R7). -/
inductive Rsv
  | none_
  | outside (lo hi : Nat)
  | oneOf (vs : List Nat)
  deriving DecidableEq, Repr

/-- A value is a reserved code of a field. -/
def Rsv.bad : Rsv → Nat → Bool
  | .none_, _ => false
  | .outside lo hi, v => decide (v < lo) || decide (hi < v)
  | .oneOf vs, v => vs.contains v

/-- A field: BAR0 offset of its register (BAR2 offsets stand above `bar2`), lowest bit, width, type, reset value, reserved
codes, kept over a whole-device reset (R520, R398), counter that saturates. -/
structure Fld where
  off : Nat
  lo : Nat
  w : Nat
  ty : RegTy
  reset : Nat
  rsv : Rsv
  kept : Bool
  sat : Bool
  deriving DecidableEq, Repr

/-- Where BAR2 offsets stand in the field map. -/
def bar2 : Nat := 0x100000000

/-- The key of a field in the field map. -/
def Fld.key (f : Fld) : Nat := f.off * 64 + f.lo

/-- A register, or a row of like registers, and its fields. -/
structure RegRow where
  base : Nat
  stride : Nat
  count : Nat
  flds : Nat → List Fld

/-- LOCK_STATUS.LOCK_VIOLATION, R40 of 02_register_behaviour.md. -/
def Reg.LOCK_STATUS.LOCK_VIOLATION : Fld := ⟨0x100, 0, 1, .w1c, 0, .none_, false, false⟩
/-- LOCK_STATUS.LAST_SRC, R40 of 02_register_behaviour.md. -/
def Reg.LOCK_STATUS.LAST_SRC : Fld := ⟨0x100, 1, 2, .ro, 0, .none_, false, false⟩
/-- LOCK_STATUS.VIOL_COUNT, R40 of 02_register_behaviour.md. -/
def Reg.LOCK_STATUS.VIOL_COUNT : Fld := ⟨0x100, 32, 32, .cnt, 0, .none_, false, true⟩
/-- LOCK_LAST_ADDR.ADDR, R41 of 02_register_behaviour.md. -/
def Reg.LOCK_LAST_ADDR.ADDR : Fld := ⟨0x108, 0, 26, .ro, 0, .none_, false, false⟩
/-- WR_COLLIDE.COUNT, R42 of 02_register_behaviour.md. -/
def Reg.WR_COLLIDE.COUNT : Fld := ⟨0x110, 0, 32, .cnt, 0, .none_, false, true⟩
/-- WR_COLLIDE.ADDR, R42 of 02_register_behaviour.md. -/
def Reg.WR_COLLIDE.ADDR : Fld := ⟨0x110, 32, 26, .ro, 0, .none_, false, false⟩
/-- WR_COLLIDE.SRC, R42 of 02_register_behaviour.md. -/
def Reg.WR_COLLIDE.SRC : Fld := ⟨0x110, 58, 2, .ro, 0, .none_, false, false⟩
/-- WR_COLLIDE.BAR, R42 of 02_register_behaviour.md. -/
def Reg.WR_COLLIDE.BAR : Fld := ⟨0x110, 60, 1, .ro, 0, .none_, false, false⟩
/-- TW_TARGET.TILE, R43 of 02_register_behaviour.md. -/
def Reg.TW_TARGET.TILE : Fld := ⟨0x2000000, 0, 17, .rw, 0, .none_, false, false⟩
/-- TW_TARGET.SPACE, R43 of 02_register_behaviour.md. -/
def Reg.TW_TARGET.SPACE : Fld := ⟨0x2000000, 17, 2, .rw, 0, .oneOf [3], false, false⟩
/-- TW_TARGET.OFFSET, R43 of 02_register_behaviour.md. -/
def Reg.TW_TARGET.OFFSET : Fld := ⟨0x2000000, 32, 17, .rw, 0, .none_, false, false⟩
/-- TW_CMD.GO, R44 of 02_register_behaviour.md. -/
def Reg.TW_CMD.GO : Fld := ⟨0x2000008, 0, 1, .sc, 0, .none_, false, false⟩
/-- TW_CMD.DIR, R44 of 02_register_behaviour.md. -/
def Reg.TW_CMD.DIR : Fld := ⟨0x2000008, 1, 1, .rw, 0, .none_, false, false⟩
/-- TW_CMD.WORDS, R44 of 02_register_behaviour.md. -/
def Reg.TW_CMD.WORDS : Fld := ⟨0x2000008, 2, 4, .rw, 1, .outside 1 8, false, false⟩
/-- TW_STATUS.BUSY, R45 of 02_register_behaviour.md. -/
def Reg.TW_STATUS.BUSY : Fld := ⟨0x2000010, 0, 1, .ro, 0, .none_, false, false⟩
/-- TW_STATUS.ERR, R45 of 02_register_behaviour.md. -/
def Reg.TW_STATUS.ERR : Fld := ⟨0x2000010, 1, 3, .ro, 0, .none_, false, false⟩
/-- TW_STATUS.REJECT, R45 of 02_register_behaviour.md. -/
def Reg.TW_STATUS.REJECT : Fld := ⟨0x2000010, 4, 1, .w1c, 0, .none_, false, false⟩
/-- TW_STATUS.SEQ, R45 of 02_register_behaviour.md. -/
def Reg.TW_STATUS.SEQ : Fld := ⟨0x2000010, 32, 16, .ro, 0, .none_, false, false⟩
/-- TW_DATA.DATA, R46 of 02_register_behaviour.md. -/
def Reg.TW_DATA.DATA (k : Nat) : Fld := ⟨0x2000040 + 8 * k, 0, 64, .hwu, 0, .none_, false, false⟩
/-- TILE_IDENT.LOGICAL, R57 of 03_pitch_fabric.md. -/
def TReg.TILE_IDENT.LOGICAL : Fld := ⟨0x0, 0, 17, .ro, 0, .none_, false, false⟩
/-- TILE_IDENT.PHYSICAL, R57 of 03_pitch_fabric.md. -/
def TReg.TILE_IDENT.PHYSICAL : Fld := ⟨0x0, 32, 17, .ro, 0, .none_, false, false⟩
/-- TILE_IDENT.ISLAND, R57 of 03_pitch_fabric.md. -/
def TReg.TILE_IDENT.ISLAND : Fld := ⟨0x0, 49, 10, .ro, 0, .none_, false, false⟩
/-- TILE_DUTY.DUTY, R57 of 03_pitch_fabric.md. -/
def TReg.TILE_DUTY.DUTY : Fld := ⟨0x8, 0, 3, .ro, 0, .none_, false, false⟩
/-- TILE_DUTY.STATE, R57 of 03_pitch_fabric.md. -/
def TReg.TILE_DUTY.STATE : Fld := ⟨0x8, 4, 3, .ro, 0, .none_, false, false⟩
/-- TILE_DUTY.CTX, R57 of 03_pitch_fabric.md. -/
def TReg.TILE_DUTY.CTX : Fld := ⟨0x8, 32, 12, .ro, 0, .none_, false, false⟩
/-- TILE_COUNT.RESIDUE_REPLAY, R57 of 03_pitch_fabric.md. -/
def TReg.TILE_COUNT.RESIDUE_REPLAY : Fld := ⟨0x10, 0, 32, .cnt, 0, .none_, false, false⟩
/-- TILE_COUNT.ZERO_SKIP, R57 of 03_pitch_fabric.md. -/
def TReg.TILE_COUNT.ZERO_SKIP : Fld := ⟨0x10, 32, 32, .cnt, 0, .none_, false, false⟩
/-- TILE_STEAL.UNITS_IN, R57 of 03_pitch_fabric.md. -/
def TReg.TILE_STEAL.UNITS_IN : Fld := ⟨0x18, 0, 32, .cnt, 0, .none_, false, false⟩
/-- TILE_STEAL.UNITS_OUT, R57 of 03_pitch_fabric.md. -/
def TReg.TILE_STEAL.UNITS_OUT : Fld := ⟨0x18, 32, 32, .cnt, 0, .none_, false, false⟩
/-- FIT_STATUS.VALID, R69 of 03_pitch_fabric.md. -/
def Reg.FIT_STATUS.VALID : Fld := ⟨0x200, 0, 1, .ro, 0, .none_, false, false⟩
/-- FIT_STATUS.UNFIT, R69 of 03_pitch_fabric.md. -/
def Reg.FIT_STATUS.UNFIT : Fld := ⟨0x200, 1, 1, .ro, 0, .none_, false, false⟩
/-- FIT_STATUS.BOOT_SEQ, R69 of 03_pitch_fabric.md. -/
def Reg.FIT_STATUS.BOOT_SEQ : Fld := ⟨0x200, 32, 32, .ro, 0, .none_, false, false⟩
/-- CONV_CFG.OUTL_LOG2, R144 of 05_two_way_converter.md. -/
def TReg.CONV_CFG.OUTL_LOG2 : Fld := ⟨0x40, 0, 4, .rw, 3, .outside 1 15, false, false⟩
/-- CONV_CFG.CUSTOM_SEL0, R144 of 05_two_way_converter.md. -/
def TReg.CONV_CFG.CUSTOM_SEL0 : Fld := ⟨0x40, 4, 4, .rw, 0, .outside 0 3, false, false⟩
/-- CONV_CFG.CUSTOM_SEL1, R144 of 05_two_way_converter.md. -/
def TReg.CONV_CFG.CUSTOM_SEL1 : Fld := ⟨0x40, 8, 4, .rw, 0, .outside 0 3, false, false⟩
/-- CONV_CFG.CUSTOM_SEL2, R144 of 05_two_way_converter.md. -/
def TReg.CONV_CFG.CUSTOM_SEL2 : Fld := ⟨0x40, 12, 4, .rw, 0, .outside 0 3, false, false⟩
/-- CONV_CFG.STATS_EN, R144 of 05_two_way_converter.md. -/
def TReg.CONV_CFG.STATS_EN : Fld := ⟨0x40, 16, 1, .rw, 1, .none_, false, false⟩
/-- CONV_STATUS.BUSY, R144 of 05_two_way_converter.md. -/
def TReg.CONV_STATUS.BUSY : Fld := ⟨0x48, 0, 1, .ro, 0, .none_, false, false⟩
/-- CONV_STATUS.REC_DEPTH, R144 of 05_two_way_converter.md. -/
def TReg.CONV_STATUS.REC_DEPTH : Fld := ⟨0x48, 1, 3, .ro, 0, .none_, false, false⟩
/-- CONV_STATUS.TAG_FAULT, R144 of 05_two_way_converter.md. -/
def TReg.CONV_STATUS.TAG_FAULT : Fld := ⟨0x48, 4, 1, .w1c, 0, .none_, false, false⟩
/-- CONV_COUNT0.BLOCKS_ENC, R144 of 05_two_way_converter.md. -/
def TReg.CONV_COUNT0.BLOCKS_ENC : Fld := ⟨0x50, 0, 32, .cnt, 0, .none_, false, false⟩
/-- CONV_COUNT0.BLOCKS_DEC, R144 of 05_two_way_converter.md. -/
def TReg.CONV_COUNT0.BLOCKS_DEC : Fld := ⟨0x50, 32, 32, .cnt, 0, .none_, false, false⟩
/-- CONV_COUNT1.OUTLIERS, R144 of 05_two_way_converter.md. -/
def TReg.CONV_COUNT1.OUTLIERS : Fld := ⟨0x58, 0, 32, .cnt, 0, .none_, false, false⟩
/-- CONV_COUNT1.NAN_BLOCKS, R144 of 05_two_way_converter.md. -/
def TReg.CONV_COUNT1.NAN_BLOCKS : Fld := ⟨0x58, 32, 32, .cnt, 0, .none_, false, false⟩
/-- CONV_COUNT2.RECORDS, R144 of 05_two_way_converter.md. -/
def TReg.CONV_COUNT2.RECORDS : Fld := ⟨0x60, 0, 32, .cnt, 0, .none_, false, false⟩
/-- CONV_COUNT2.REC_STALL, R144 of 05_two_way_converter.md. -/
def TReg.CONV_COUNT2.REC_STALL : Fld := ⟨0x60, 32, 32, .cnt, 0, .none_, false, false⟩
/-- POLICY_CTRL.ACTIVE_GEN, R176 of 06_numerics_policy.md. -/
def Reg.POLICY_CTRL.ACTIVE_GEN : Fld := ⟨0x200000, 0, 2, .ro, 0, .none_, false, false⟩
/-- POLICY_CTRL.PENDING_GEN, R176 of 06_numerics_policy.md. -/
def Reg.POLICY_CTRL.PENDING_GEN : Fld := ⟨0x200000, 2, 2, .rw, 0, .none_, false, false⟩
/-- POLICY_CTRL.CAL_EN, R176 of 06_numerics_policy.md. -/
def Reg.POLICY_CTRL.CAL_EN : Fld := ⟨0x200000, 8, 1, .rw, 0, .none_, false, false⟩
/-- POLICY_CTRL.CAL_OWNER, R176 of 06_numerics_policy.md. -/
def Reg.POLICY_CTRL.CAL_OWNER : Fld := ⟨0x200000, 9, 1, .rw, 0, .none_, false, false⟩
/-- POLICY_STATUS.FLIP_PENDING, R176 of 06_numerics_policy.md. -/
def Reg.POLICY_STATUS.FLIP_PENDING : Fld := ⟨0x200008, 0, 1, .ro, 0, .none_, false, false⟩
/-- POLICY_STATUS.STAGED, R176 of 06_numerics_policy.md. -/
def Reg.POLICY_STATUS.STAGED : Fld := ⟨0x200008, 1, 1, .ro, 0, .none_, false, false⟩
/-- POLICY_STATUS.BUDGET_EXCESS, R176 of 06_numerics_policy.md. -/
def Reg.POLICY_STATUS.BUDGET_EXCESS : Fld := ⟨0x200008, 2, 1, .w1c, 0, .none_, false, false⟩
/-- POLICY_STATUS.CAL_OVERFLOW, R176 of 06_numerics_policy.md. -/
def Reg.POLICY_STATUS.CAL_OVERFLOW : Fld := ⟨0x200008, 3, 1, .w1c, 0, .none_, false, false⟩
/-- POLICY_STATUS.RESOLVING, R176 of 06_numerics_policy.md. -/
def Reg.POLICY_STATUS.RESOLVING : Fld := ⟨0x200008, 4, 1, .ro, 0, .none_, false, false⟩
/-- POLICY_FLIP_STEP.STEP, R176 of 06_numerics_policy.md. -/
def Reg.POLICY_FLIP_STEP.STEP : Fld := ⟨0x200010, 0, 64, .ro, 0, .none_, false, false⟩
/-- POLICY_COUNT0.RECORDS, R176 of 06_numerics_policy.md. -/
def Reg.POLICY_COUNT0.RECORDS : Fld := ⟨0x200018, 0, 32, .cnt, 0, .none_, false, false⟩
/-- POLICY_COUNT0.EXCESS, R176 of 06_numerics_policy.md. -/
def Reg.POLICY_COUNT0.EXCESS : Fld := ⟨0x200018, 32, 32, .cnt, 0, .none_, false, false⟩
/-- POLICY_COUNT1.CAL_SAMPLED, R176 of 06_numerics_policy.md. -/
def Reg.POLICY_COUNT1.CAL_SAMPLED : Fld := ⟨0x200020, 0, 32, .cnt, 0, .none_, false, false⟩
/-- POLICY_COUNT1.CAL_MISSED, R176 of 06_numerics_policy.md. -/
def Reg.POLICY_COUNT1.CAL_MISSED : Fld := ⟨0x200020, 32, 32, .cnt, 0, .none_, false, false⟩
/-- CAL_STAGE_BASE.ADDR, R176 of 06_numerics_policy.md. -/
def Reg.CAL_STAGE_BASE.ADDR : Fld := ⟨0x200038, 0, 48, .rw, 0, .none_, false, false⟩
/-- CAL_LOG_BASE.ADDR, R176 of 06_numerics_policy.md. -/
def Reg.CAL_LOG_BASE.ADDR : Fld := ⟨0x200040, 0, 48, .rw, 0, .none_, false, false⟩
/-- CAL_LOG_SIZE.LOG2, R176 of 06_numerics_policy.md. -/
def Reg.CAL_LOG_SIZE.LOG2 : Fld := ⟨0x200048, 0, 5, .rw, 10, .outside 4 24, false, false⟩
/-- CAL_LOG_HEAD.HEAD, R176 of 06_numerics_policy.md. -/
def Reg.CAL_LOG_HEAD.HEAD : Fld := ⟨0x200050, 0, 32, .ro, 0, .none_, false, false⟩
/-- CAL_LOG_TAIL.TAIL, R176 of 06_numerics_policy.md. -/
def Reg.CAL_LOG_TAIL.TAIL : Fld := ⟨0x200058, 0, 32, .rw, 0, .none_, false, false⟩
/-- CAL_DROP.DROPPED, R176 of 06_numerics_policy.md. -/
def Reg.CAL_DROP.DROPPED : Fld := ⟨0x200060, 0, 64, .cnt, 0, .none_, false, true⟩
/-- TMA_CFG.WIDTH, R207 of 07_filtas_ternary_arrays.md. -/
def TReg.TMA_CFG.WIDTH : Fld := ⟨0x80, 0, 2, .ro, 0, .none_, false, false⟩
/-- TMA_CFG.HOLE_STRIDE, R207 of 07_filtas_ternary_arrays.md. -/
def TReg.TMA_CFG.HOLE_STRIDE : Fld := ⟨0x80, 2, 2, .rw, 0, .none_, false, false⟩
/-- TMA_CFG.ITER, R207 of 07_filtas_ternary_arrays.md. -/
def TReg.TMA_CFG.ITER : Fld := ⟨0x80, 4, 1, .rw, 0, .none_, false, false⟩
/-- TMA_GEN.ACTIVE, R207 of 07_filtas_ternary_arrays.md. -/
def TReg.TMA_GEN.ACTIVE : Fld := ⟨0x88, 0, 2, .ro, 0, .none_, false, false⟩
/-- TMA_GEN.FLIPS, R207 of 07_filtas_ternary_arrays.md. -/
def TReg.TMA_GEN.FLIPS : Fld := ⟨0x88, 32, 32, .cnt, 0, .none_, false, false⟩
/-- TMA_PF_SEL0.SEL0, R207 of 07_filtas_ternary_arrays.md. -/
def TReg.TMA_PF_SEL0.SEL0 : Fld := ⟨0x90, 0, 9, .rw, 0, .none_, false, false⟩
/-- TMA_PF_SEL0.SEL1, R207 of 07_filtas_ternary_arrays.md. -/
def TReg.TMA_PF_SEL0.SEL1 : Fld := ⟨0x90, 16, 9, .rw, 0, .none_, false, false⟩
/-- TMA_PF_SEL0.SEL2, R207 of 07_filtas_ternary_arrays.md. -/
def TReg.TMA_PF_SEL0.SEL2 : Fld := ⟨0x90, 32, 9, .rw, 0, .none_, false, false⟩
/-- TMA_PF_SEL0.SEL3, R207 of 07_filtas_ternary_arrays.md. -/
def TReg.TMA_PF_SEL0.SEL3 : Fld := ⟨0x90, 48, 9, .rw, 0, .none_, false, false⟩
/-- TMA_PF_SEL1.SEL4, R207 of 07_filtas_ternary_arrays.md. -/
def TReg.TMA_PF_SEL1.SEL4 : Fld := ⟨0x98, 0, 9, .rw, 0, .none_, false, false⟩
/-- TMA_PF_SEL1.SEL5, R207 of 07_filtas_ternary_arrays.md. -/
def TReg.TMA_PF_SEL1.SEL5 : Fld := ⟨0x98, 16, 9, .rw, 0, .none_, false, false⟩
/-- TMA_PF_SEL1.SEL6, R207 of 07_filtas_ternary_arrays.md. -/
def TReg.TMA_PF_SEL1.SEL6 : Fld := ⟨0x98, 32, 9, .rw, 0, .none_, false, false⟩
/-- TMA_PF_SEL1.SEL7, R207 of 07_filtas_ternary_arrays.md. -/
def TReg.TMA_PF_SEL1.SEL7 : Fld := ⟨0x98, 48, 9, .rw, 0, .none_, false, false⟩
/-- TMA_PF.VALUE, R207 of 07_filtas_ternary_arrays.md. -/
def TReg.TMA_PF.VALUE (k : Nat) : Fld := ⟨0xA0 + 8 * k, 0, 8, .rw, 0, .none_, false, false⟩
/-- TMA_PF.MASK, R207 of 07_filtas_ternary_arrays.md. -/
def TReg.TMA_PF.MASK (k : Nat) : Fld := ⟨0xA0 + 8 * k, 8, 8, .rw, 0, .none_, false, false⟩
/-- TMA_PF.OFF, R207 of 07_filtas_ternary_arrays.md. -/
def TReg.TMA_PF.OFF (k : Nat) : Fld := ⟨0xA0 + 8 * k, 16, 1, .rw, 0, .none_, false, false⟩
/-- TMA_STATUS.EDIT_DROP, R207 of 07_filtas_ternary_arrays.md. -/
def TReg.TMA_STATUS.EDIT_DROP : Fld := ⟨0x120, 0, 1, .w1c, 0, .none_, false, false⟩
/-- TMA_STATUS.ECC_CORR, R207 of 07_filtas_ternary_arrays.md. -/
def TReg.TMA_STATUS.ECC_CORR : Fld := ⟨0x120, 1, 1, .w1c, 0, .none_, false, false⟩
/-- TMA_STATUS.ECC_UNCORR, R207 of 07_filtas_ternary_arrays.md. -/
def TReg.TMA_STATUS.ECC_UNCORR : Fld := ⟨0x120, 2, 1, .w1c, 0, .none_, false, false⟩
/-- TMA_STATUS.EDIT_BUSY, R207 of 07_filtas_ternary_arrays.md. -/
def TReg.TMA_STATUS.EDIT_BUSY : Fld := ⟨0x120, 3, 1, .ro, 0, .none_, false, false⟩
/-- TMA_STATUS.LIVE, R207 of 07_filtas_ternary_arrays.md. -/
def TReg.TMA_STATUS.LIVE : Fld := ⟨0x120, 16, 10, .ro, 0, .none_, false, false⟩
/-- TMA_STATUS.STAGED, R207 of 07_filtas_ternary_arrays.md. -/
def TReg.TMA_STATUS.STAGED : Fld := ⟨0x120, 32, 10, .ro, 0, .none_, false, false⟩
/-- TMA_COUNT0.SEARCHES, R207 of 07_filtas_ternary_arrays.md. -/
def TReg.TMA_COUNT0.SEARCHES : Fld := ⟨0x128, 0, 32, .cnt, 0, .none_, false, false⟩
/-- TMA_COUNT0.HITS, R207 of 07_filtas_ternary_arrays.md. -/
def TReg.TMA_COUNT0.HITS : Fld := ⟨0x128, 32, 32, .cnt, 0, .none_, false, false⟩
/-- TMA_COUNT1.TIES, R207 of 07_filtas_ternary_arrays.md. -/
def TReg.TMA_COUNT1.TIES : Fld := ⟨0x130, 0, 32, .cnt, 0, .none_, false, false⟩
/-- TMA_COUNT1.EDITS, R207 of 07_filtas_ternary_arrays.md. -/
def TReg.TMA_COUNT1.EDITS : Fld := ⟨0x130, 32, 32, .cnt, 0, .none_, false, false⟩
/-- TMA_IKEY.KEY, R207 of 07_filtas_ternary_arrays.md. -/
def TReg.TMA_IKEY.KEY (k : Nat) : Fld := ⟨0x140 + 8 * k, 0, 64, .rw, 0, .none_, false, false⟩
/-- TMA_ICURSOR.CURSOR, R207 of 07_filtas_ternary_arrays.md. -/
def TReg.TMA_ICURSOR.CURSOR : Fld := ⟨0x180, 0, 10, .rw, 0, .none_, false, false⟩
/-- TMA_IRESULT.RESULT, R207 of 07_filtas_ternary_arrays.md. -/
def TReg.TMA_IRESULT.RESULT : Fld := ⟨0x188, 0, 63, .ro, 0, .none_, false, false⟩
/-- TMA_IRESULT.BUSY, R207 of 07_filtas_ternary_arrays.md. -/
def TReg.TMA_IRESULT.BUSY : Fld := ⟨0x188, 63, 1, .ro, 0, .none_, false, false⟩
/-- SCORE_TILE.ROLE, R243 of 08_filtas_tree_scoring.md. -/
def TReg.SCORE_TILE.ROLE : Fld := ⟨0x200, 0, 3, .ro, 0, .none_, false, false⟩
/-- SCORE_TILE.TREES, R243 of 08_filtas_tree_scoring.md. -/
def TReg.SCORE_TILE.TREES : Fld := ⟨0x200, 4, 4, .ro, 0, .none_, false, false⟩
/-- SCORE_TILE.REPLICA, R243 of 08_filtas_tree_scoring.md. -/
def TReg.SCORE_TILE.REPLICA : Fld := ⟨0x200, 8, 4, .ro, 0, .none_, false, false⟩
/-- SCORE_TILE.SEGMENT, R243 of 08_filtas_tree_scoring.md. -/
def TReg.SCORE_TILE.SEGMENT : Fld := ⟨0x200, 12, 4, .ro, 0, .none_, false, false⟩
/-- SCORE_TILE.FIRST_TREE, R243 of 08_filtas_tree_scoring.md. -/
def TReg.SCORE_TILE.FIRST_TREE : Fld := ⟨0x200, 16, 14, .ro, 0, .none_, false, false⟩
/-- SCORE_TILE.GROUP_POS, R243 of 08_filtas_tree_scoring.md. -/
def TReg.SCORE_TILE.GROUP_POS : Fld := ⟨0x200, 32, 6, .ro, 0, .none_, false, false⟩
/-- SCORE_TILE_COUNT.RECORDS, R243 of 08_filtas_tree_scoring.md. -/
def TReg.SCORE_TILE_COUNT.RECORDS : Fld := ⟨0x208, 0, 32, .cnt, 0, .none_, false, false⟩
/-- SCORE_TILE_COUNT.MISSES, R243 of 08_filtas_tree_scoring.md. -/
def TReg.SCORE_TILE_COUNT.MISSES : Fld := ⟨0x208, 32, 32, .cnt, 0, .none_, false, false⟩
/-- FILTAS_SCORE_CFG.POLL, R244 of 08_filtas_tree_scoring.md. -/
def Reg.FILTAS_SCORE_CFG.POLL : Fld := ⟨0x100000, 0, 8, .rw, 1, .outside 1 255, false, false⟩
/-- FILTAS_SCORE_STATUS.TIE_SEEN, R244 of 08_filtas_tree_scoring.md. -/
def Reg.FILTAS_SCORE_STATUS.TIE_SEEN : Fld := ⟨0x100008, 0, 1, .w1c, 0, .none_, false, false⟩
/-- FILTAS_SCORE_STATUS.MISS_SEEN, R244 of 08_filtas_tree_scoring.md. -/
def Reg.FILTAS_SCORE_STATUS.MISS_SEEN : Fld := ⟨0x100008, 1, 1, .w1c, 0, .none_, false, false⟩
/-- FILTAS_SCORE_STATUS.MULTI_SEEN, R244 of 08_filtas_tree_scoring.md. -/
def Reg.FILTAS_SCORE_STATUS.MULTI_SEEN : Fld := ⟨0x100008, 2, 1, .w1c, 0, .none_, false, false⟩
/-- FILTAS_SCORE_STATUS.MISMATCH_SEEN, R244 of 08_filtas_tree_scoring.md. -/
def Reg.FILTAS_SCORE_STATUS.MISMATCH_SEEN : Fld := ⟨0x100008, 3, 1, .w1c, 0, .none_, false, false⟩
/-- FILTAS_SCORE_STATUS.STALLED, R244 of 08_filtas_tree_scoring.md. -/
def Reg.FILTAS_SCORE_STATUS.STALLED : Fld := ⟨0x100008, 4, 1, .ro, 0, .none_, false, false⟩
/-- FILTAS_SCORE_STATUS.STREAMS, R244 of 08_filtas_tree_scoring.md. -/
def Reg.FILTAS_SCORE_STATUS.STREAMS : Fld := ⟨0x100008, 32, 18, .ro, 0, .none_, false, false⟩
/-- FILTAS_SCORE_COUNT0.RESULTS, R244 of 08_filtas_tree_scoring.md. -/
def Reg.FILTAS_SCORE_COUNT0.RESULTS : Fld := ⟨0x100010, 0, 64, .cnt, 0, .none_, false, true⟩
/-- FILTAS_SCORE_COUNT1.TIE_TREES, R244 of 08_filtas_tree_scoring.md. -/
def Reg.FILTAS_SCORE_COUNT1.TIE_TREES : Fld := ⟨0x100018, 0, 32, .cnt, 0, .none_, false, false⟩
/-- FILTAS_SCORE_COUNT1.MISS_TREES, R244 of 08_filtas_tree_scoring.md. -/
def Reg.FILTAS_SCORE_COUNT1.MISS_TREES : Fld := ⟨0x100018, 32, 32, .cnt, 0, .none_, false, false⟩
/-- FILTAS_SCORE_COUNT2.MULTI_TREES, R244 of 08_filtas_tree_scoring.md. -/
def Reg.FILTAS_SCORE_COUNT2.MULTI_TREES : Fld := ⟨0x100020, 0, 32, .cnt, 0, .none_, false, false⟩
/-- FILTAS_SCORE_COUNT2.MISMATCHES, R244 of 08_filtas_tree_scoring.md. -/
def Reg.FILTAS_SCORE_COUNT2.MISMATCHES : Fld := ⟨0x100020, 32, 32, .cnt, 0, .none_, false, false⟩
/-- FILTAS_SCORE_COUNT3.RING_STALL, R244 of 08_filtas_tree_scoring.md. -/
def Reg.FILTAS_SCORE_COUNT3.RING_STALL : Fld := ⟨0x100028, 0, 64, .cnt, 0, .none_, false, false⟩
/-- PAT_TILE.AUTOMATA, R270 of 09_filtas_patterns.md. -/
def TReg.PAT_TILE.AUTOMATA : Fld := ⟨0x280, 0, 4, .ro, 0, .none_, false, false⟩
/-- PAT_TILE.LANES_BUSY, R270 of 09_filtas_patterns.md. -/
def TReg.PAT_TILE.LANES_BUSY : Fld := ⟨0x280, 4, 7, .ro, 0, .none_, false, false⟩
/-- PAT_TILE.GROUP_POS, R270 of 09_filtas_patterns.md. -/
def TReg.PAT_TILE.GROUP_POS : Fld := ⟨0x280, 32, 8, .ro, 0, .none_, false, false⟩
/-- PAT_TILE_COUNT.SEARCHES, R270 of 09_filtas_patterns.md. -/
def TReg.PAT_TILE_COUNT.SEARCHES : Fld := ⟨0x288, 0, 32, .cnt, 0, .none_, false, false⟩
/-- PAT_TILE_COUNT.MISSES, R270 of 09_filtas_patterns.md. -/
def TReg.PAT_TILE_COUNT.MISSES : Fld := ⟨0x288, 32, 32, .cnt, 0, .none_, false, false⟩
/-- FILTAS_PAT_STATUS.TRUNC_SEEN, R271 of 09_filtas_patterns.md. -/
def Reg.FILTAS_PAT_STATUS.TRUNC_SEEN : Fld := ⟨0x100100, 0, 1, .w1c, 0, .none_, false, false⟩
/-- FILTAS_PAT_STATUS.BAD_SEEN, R271 of 09_filtas_patterns.md. -/
def Reg.FILTAS_PAT_STATUS.BAD_SEEN : Fld := ⟨0x100100, 1, 1, .w1c, 0, .none_, false, false⟩
/-- FILTAS_PAT_STATUS.STALLED, R271 of 09_filtas_patterns.md. -/
def Reg.FILTAS_PAT_STATUS.STALLED : Fld := ⟨0x100100, 2, 1, .ro, 0, .none_, false, false⟩
/-- FILTAS_PAT_STATUS.STREAMS, R271 of 09_filtas_patterns.md. -/
def Reg.FILTAS_PAT_STATUS.STREAMS : Fld := ⟨0x100100, 32, 18, .ro, 0, .none_, false, false⟩
/-- FILTAS_PAT_COUNT0.BYTES, R271 of 09_filtas_patterns.md. -/
def Reg.FILTAS_PAT_COUNT0.BYTES : Fld := ⟨0x100108, 0, 64, .cnt, 0, .none_, false, true⟩
/-- FILTAS_PAT_COUNT1.REPORTS, R271 of 09_filtas_patterns.md. -/
def Reg.FILTAS_PAT_COUNT1.REPORTS : Fld := ⟨0x100110, 0, 32, .cnt, 0, .none_, false, false⟩
/-- FILTAS_PAT_COUNT1.TRUNC_REPORTS, R271 of 09_filtas_patterns.md. -/
def Reg.FILTAS_PAT_COUNT1.TRUNC_REPORTS : Fld := ⟨0x100110, 32, 32, .cnt, 0, .none_, false, false⟩
/-- FILTAS_PAT_COUNT2.REDACTED, R271 of 09_filtas_patterns.md. -/
def Reg.FILTAS_PAT_COUNT2.REDACTED : Fld := ⟨0x100118, 0, 32, .cnt, 0, .none_, false, false⟩
/-- FILTAS_PAT_COUNT2.DROPPED, R271 of 09_filtas_patterns.md. -/
def Reg.FILTAS_PAT_COUNT2.DROPPED : Fld := ⟨0x100118, 32, 32, .cnt, 0, .none_, false, false⟩
/-- MEM_INFO.STACKS, R292 of 10_memory.md. -/
def Reg.MEM_INFO.STACKS : Fld := ⟨0x400000, 0, 12, .ro, 0, .none_, false, false⟩
/-- MEM_INFO.N, R292 of 10_memory.md. -/
def Reg.MEM_INFO.N : Fld := ⟨0x400000, 12, 4, .ro, 0, .none_, false, false⟩
/-- MEM_INFO.PRESERVED, R292 of 10_memory.md. -/
def Reg.MEM_INFO.PRESERVED : Fld := ⟨0x400000, 16, 1, .ro, 0, .none_, false, false⟩
/-- MEM_INFO.USABLE_GIB, R292 of 10_memory.md. -/
def Reg.MEM_INFO.USABLE_GIB : Fld := ⟨0x400000, 32, 16, .ro, 0, .none_, false, false⟩
/-- MEM_CTRL.SCRUB_HOURS, R292 of 10_memory.md. -/
def Reg.MEM_CTRL.SCRUB_HOURS : Fld := ⟨0x400008, 0, 8, .rw, 12, .outside 1 255, false, false⟩
/-- MEM_STATUS.CE_SEEN, R292 of 10_memory.md. -/
def Reg.MEM_STATUS.CE_SEEN : Fld := ⟨0x400010, 0, 1, .w1c, 0, .none_, false, false⟩
/-- MEM_STATUS.UE_SEEN, R292 of 10_memory.md. -/
def Reg.MEM_STATUS.UE_SEEN : Fld := ⟨0x400010, 1, 1, .w1c, 0, .none_, false, false⟩
/-- MEM_STATUS.POISON_READ, R292 of 10_memory.md. -/
def Reg.MEM_STATUS.POISON_READ : Fld := ⟨0x400010, 2, 1, .w1c, 0, .none_, false, false⟩
/-- MEM_STATUS.SRAM_CE_SEEN, R292 of 10_memory.md. -/
def Reg.MEM_STATUS.SRAM_CE_SEEN : Fld := ⟨0x400010, 3, 1, .w1c, 0, .none_, false, false⟩
/-- MEM_STATUS.SRAM_UE_SEEN, R292 of 10_memory.md. -/
def Reg.MEM_STATUS.SRAM_UE_SEEN : Fld := ⟨0x400010, 4, 1, .w1c, 0, .none_, false, false⟩
/-- MEM_UE_ADDR.ADDR, R292 of 10_memory.md. -/
def Reg.MEM_UE_ADDR.ADDR : Fld := ⟨0x400018, 0, 48, .ro, 0, .none_, false, false⟩
/-- MEM_UE_ADDR.STACK, R292 of 10_memory.md. -/
def Reg.MEM_UE_ADDR.STACK : Fld := ⟨0x400018, 48, 4, .ro, 0, .none_, false, false⟩
/-- MEM_REFRESH.HOT, R292 of 10_memory.md. -/
def Reg.MEM_REFRESH.HOT : Fld := ⟨0x400020, 0, 12, .ro, 0, .none_, false, false⟩
/-- MEM_SRAM_COUNT.CE, R292 of 10_memory.md. -/
def Reg.MEM_SRAM_COUNT.CE : Fld := ⟨0x400028, 0, 32, .cnt, 0, .none_, false, true⟩
/-- MEM_SRAM_COUNT.UE, R292 of 10_memory.md. -/
def Reg.MEM_SRAM_COUNT.UE : Fld := ⟨0x400028, 32, 32, .cnt, 0, .none_, false, true⟩
/-- MEM_STACK_COUNT.CE, R292 of 10_memory.md. -/
def Reg.MEM_STACK_COUNT.CE (k : Nat) : Fld := ⟨0x400100 + 8 * k, 0, 32, .cnt, 0, .none_, false, true⟩
/-- MEM_STACK_COUNT.UE, R292 of 10_memory.md. -/
def Reg.MEM_STACK_COUNT.UE (k : Nat) : Fld := ⟨0x400100 + 8 * k, 32, 32, .cnt, 0, .none_, false, true⟩
/-- SUBQ_BASE.ADDR, R331 of 11_command_front_end.md. -/
def Reg.SUBQ_BASE.ADDR : Fld := ⟨0x40000, 6, 58, .rw, 0, .none_, false, false⟩
/-- SUBQ_CTRL.EN, R331 of 11_command_front_end.md. -/
def Reg.SUBQ_CTRL.EN : Fld := ⟨0x40008, 0, 1, .rw, 0, .none_, false, false⟩
/-- SUBQ_CTRL.SIZE_LOG2, R331 of 11_command_front_end.md. -/
def Reg.SUBQ_CTRL.SIZE_LOG2 : Fld := ⟨0x40008, 1, 5, .rw, 10, .outside 4 16, false, false⟩
/-- SUBQ_TAIL.TAIL, R331 of 11_command_front_end.md. -/
def Reg.SUBQ_TAIL.TAIL : Fld := ⟨0x40010, 0, 32, .rw, 0, .none_, false, false⟩
/-- SUBQ_HEAD.HEAD, R331 of 11_command_front_end.md. -/
def Reg.SUBQ_HEAD.HEAD : Fld := ⟨0x40018, 0, 32, .ro, 0, .none_, false, false⟩
/-- FE_STATUS.FETCHING, R331 of 11_command_front_end.md. -/
def Reg.FE_STATUS.FETCHING : Fld := ⟨0x40020, 0, 1, .ro, 0, .none_, false, false⟩
/-- FE_STATUS.RING_ERR, R331 of 11_command_front_end.md. -/
def Reg.FE_STATUS.RING_ERR : Fld := ⟨0x40020, 1, 1, .w1c, 0, .none_, false, false⟩
/-- FE_STATUS.PARSE_SEEN, R331 of 11_command_front_end.md. -/
def Reg.FE_STATUS.PARSE_SEEN : Fld := ⟨0x40020, 2, 1, .w1c, 0, .none_, false, false⟩
/-- FE_STATUS.PRIV_SEEN, R331 of 11_command_front_end.md. -/
def Reg.FE_STATUS.PRIV_SEEN : Fld := ⟨0x40020, 3, 1, .w1c, 0, .none_, false, false⟩
/-- FE_STATUS.QUOTA_OVER_SEEN, R331 of 11_command_front_end.md. -/
def Reg.FE_STATUS.QUOTA_OVER_SEEN : Fld := ⟨0x40020, 4, 1, .w1c, 0, .none_, false, false⟩
/-- FE_STATUS.LAST_ERR_CTX, R331 of 11_command_front_end.md. -/
def Reg.FE_STATUS.LAST_ERR_CTX : Fld := ⟨0x40020, 16, 12, .ro, 0, .none_, false, false⟩
/-- FE_COUNT0.BUFFERS, R331 of 11_command_front_end.md. -/
def Reg.FE_COUNT0.BUFFERS : Fld := ⟨0x40028, 0, 32, .cnt, 0, .none_, false, false⟩
/-- FE_COUNT0.OPS, R331 of 11_command_front_end.md. -/
def Reg.FE_COUNT0.OPS : Fld := ⟨0x40028, 32, 32, .cnt, 0, .none_, false, false⟩
/-- FE_COUNT1.REJECTED, R331 of 11_command_front_end.md. -/
def Reg.FE_COUNT1.REJECTED : Fld := ⟨0x40030, 0, 32, .cnt, 0, .none_, false, false⟩
/-- FE_COUNT1.DISCARDED, R331 of 11_command_front_end.md. -/
def Reg.FE_COUNT1.DISCARDED : Fld := ⟨0x40030, 32, 32, .cnt, 0, .none_, false, false⟩
/-- FE_INFLIGHT.OPS, R331 of 11_command_front_end.md. -/
def Reg.FE_INFLIGHT.OPS : Fld := ⟨0x40038, 0, 17, .ro, 0, .none_, false, false⟩
/-- FE_INFLIGHT.CONTEXTS, R331 of 11_command_front_end.md. -/
def Reg.FE_INFLIGHT.CONTEXTS : Fld := ⟨0x40038, 32, 13, .ro, 1, .none_, false, false⟩
/-- FE_INFLIGHT.RT, R331 of 11_command_front_end.md. -/
def Reg.FE_INFLIGHT.RT : Fld := ⟨0x40038, 45, 7, .ro, 0, .none_, false, false⟩
/-- CTX_INFO.STATE, R331 of 11_command_front_end.md. -/
def Reg.CTX_INFO.STATE (k : Nat) : Fld := ⟨0x60000 + 32 * k, 0, 3, .ro, 0, .none_, false, false⟩
/-- CTX_INFO.RT, R331 of 11_command_front_end.md. -/
def Reg.CTX_INFO.RT (k : Nat) : Fld := ⟨0x60000 + 32 * k, 3, 1, .ro, 0, .none_, false, false⟩
/-- CTX_INFO.RANK, R331 of 11_command_front_end.md. -/
def Reg.CTX_INFO.RANK (k : Nat) : Fld := ⟨0x60000 + 32 * k, 4, 8, .ro, 0, .none_, false, false⟩
/-- CTX_INFO.LAST_ERR, R331 of 11_command_front_end.md. -/
def Reg.CTX_INFO.LAST_ERR (k : Nat) : Fld := ⟨0x60000 + 32 * k, 12, 4, .ro, 0, .none_, false, false⟩
/-- CTX_QUOTA.SHARE, R331 of 11_command_front_end.md. -/
def Reg.CTX_QUOTA.SHARE (k : Nat) : Fld := ⟨0x60008 + 32 * k, 0, 9, .ro, 0, .none_, false, false⟩
/-- CTX_QUOTA.STREAMS, R331 of 11_command_front_end.md. -/
def Reg.CTX_QUOTA.STREAMS (k : Nat) : Fld := ⟨0x60008 + 32 * k, 16, 19, .ro, 0, .none_, false, false⟩
/-- CTX_QUOTA.OUTSTANDING, R331 of 11_command_front_end.md. -/
def Reg.CTX_QUOTA.OUTSTANDING (k : Nat) : Fld := ⟨0x60008 + 32 * k, 48, 13, .ro, 1, .none_, false, false⟩
/-- CTX_USAGE.TILES, R331 of 11_command_front_end.md. -/
def Reg.CTX_USAGE.TILES (k : Nat) : Fld := ⟨0x60010 + 32 * k, 0, 13, .ro, 0, .none_, false, false⟩
/-- CTX_USAGE.STREAMS, R331 of 11_command_front_end.md. -/
def Reg.CTX_USAGE.STREAMS (k : Nat) : Fld := ⟨0x60010 + 32 * k, 16, 19, .ro, 0, .none_, false, false⟩
/-- CTX_USAGE.OUTSTANDING, R331 of 11_command_front_end.md. -/
def Reg.CTX_USAGE.OUTSTANDING (k : Nat) : Fld := ⟨0x60010 + 32 * k, 48, 13, .ro, 0, .none_, false, false⟩
/-- CTX_TIMEOUT.LIMIT_MS, R331 of 11_command_front_end.md. -/
def Reg.CTX_TIMEOUT.LIMIT_MS (k : Nat) : Fld := ⟨0x60018 + 32 * k, 0, 24, .ro, 10000, .none_, false, false⟩
/-- CTX_TIMEOUT.OPS, R331 of 11_command_front_end.md. -/
def Reg.CTX_TIMEOUT.OPS (k : Nat) : Fld := ⟨0x60018 + 32 * k, 32, 17, .ro, 0, .none_, false, false⟩
/-- SE_STATUS.OVERRUN_SEEN, R362 of 12_streams_and_schedule.md. -/
def Reg.SE_STATUS.OVERRUN_SEEN : Fld := ⟨0x80000, 0, 1, .w1c, 0, .none_, false, false⟩
/-- SE_STATUS.SEM_OVF_SEEN, R362 of 12_streams_and_schedule.md. -/
def Reg.SE_STATUS.SEM_OVF_SEEN : Fld := ⟨0x80000, 1, 1, .w1c, 0, .none_, false, false⟩
/-- SE_STATUS.NACK_SEEN, R362 of 12_streams_and_schedule.md. -/
def Reg.SE_STATUS.NACK_SEEN : Fld := ⟨0x80000, 2, 1, .w1c, 0, .none_, false, false⟩
/-- SE_STATUS.FABRIC_TREES, R362 of 12_streams_and_schedule.md. -/
def Reg.SE_STATUS.FABRIC_TREES : Fld := ⟨0x80000, 16, 4, .ro, 0, .none_, false, false⟩
/-- SE_COUNT0.BURSTS, R362 of 12_streams_and_schedule.md. -/
def Reg.SE_COUNT0.BURSTS : Fld := ⟨0x80008, 0, 32, .cnt, 0, .none_, false, false⟩
/-- SE_COUNT0.TRANSFERS, R362 of 12_streams_and_schedule.md. -/
def Reg.SE_COUNT0.TRANSFERS : Fld := ⟨0x80008, 32, 32, .cnt, 0, .none_, false, false⟩
/-- SE_COUNT1.OVERRUNS, R362 of 12_streams_and_schedule.md. -/
def Reg.SE_COUNT1.OVERRUNS : Fld := ⟨0x80010, 0, 32, .cnt, 0, .none_, false, false⟩
/-- SE_COUNT1.SEM_WAITED, R362 of 12_streams_and_schedule.md. -/
def Reg.SE_COUNT1.SEM_WAITED : Fld := ⟨0x80010, 32, 32, .cnt, 0, .none_, false, false⟩
/-- SE_OVERRUN_LAST.EXCESS_NS, R362 of 12_streams_and_schedule.md. -/
def Reg.SE_OVERRUN_LAST.EXCESS_NS : Fld := ⟨0x80018, 0, 32, .ro, 0, .none_, false, false⟩
/-- SE_OVERRUN_LAST.CTX, R362 of 12_streams_and_schedule.md. -/
def Reg.SE_OVERRUN_LAST.CTX : Fld := ⟨0x80018, 32, 12, .ro, 0, .none_, false, false⟩
/-- SE_UNIT.FREE, R362 of 12_streams_and_schedule.md. -/
def Reg.SE_UNIT.FREE (k : Nat) : Fld := ⟨0x80100 + 8 * k, 0, 16, .ro, 0, .none_, false, false⟩
/-- SE_UNIT.TREES, R362 of 12_streams_and_schedule.md. -/
def Reg.SE_UNIT.TREES (k : Nat) : Fld := ⟨0x80100 + 8 * k, 32, 6, .ro, 0, .none_, false, false⟩
/-- GLOBAL_MODE.DET, R370 of 13_training_step.md. -/
def Reg.GLOBAL_MODE.DET : Fld := ⟨0x80, 0, 1, .rw, 0, .none_, false, false⟩
/-- SC_STATUS.PHASE, R398 of 13_training_step.md. -/
def Reg.SC_STATUS.PHASE : Fld := ⟨0x1800000, 0, 3, .ro, 0, .none_, true, false⟩
/-- SC_STATUS.COMMIT_SLOT, R398 of 13_training_step.md. -/
def Reg.SC_STATUS.COMMIT_SLOT : Fld := ⟨0x1800000, 3, 1, .ro, 0, .none_, true, false⟩
/-- SC_STATUS.RETAINED, R398 of 13_training_step.md. -/
def Reg.SC_STATUS.RETAINED : Fld := ⟨0x1800000, 4, 1, .ro, 0, .none_, false, false⟩
/-- SC_STATUS.STEP_FAULT, R398 of 13_training_step.md. -/
def Reg.SC_STATUS.STEP_FAULT : Fld := ⟨0x1800000, 5, 1, .ro, 0, .none_, true, false⟩
/-- SC_STATUS.PIN0, R398 of 13_training_step.md. -/
def Reg.SC_STATUS.PIN0 : Fld := ⟨0x1800000, 6, 4, .ro, 0, .none_, false, false⟩
/-- SC_STATUS.PIN1, R398 of 13_training_step.md. -/
def Reg.SC_STATUS.PIN1 : Fld := ⟨0x1800000, 10, 4, .ro, 0, .none_, false, false⟩
/-- SC_STEP.COUNT, R398 of 13_training_step.md. -/
def Reg.SC_STEP.COUNT : Fld := ⟨0x1800008, 0, 64, .rw, 0, .none_, true, false⟩
/-- SC_SEED_LO.SEED, R398 of 13_training_step.md. -/
def Reg.SC_SEED_LO.SEED : Fld := ⟨0x1800010, 0, 64, .rw, 0, .none_, true, false⟩
/-- SC_SEED_HI.SEED, R398 of 13_training_step.md. -/
def Reg.SC_SEED_HI.SEED : Fld := ⟨0x1800018, 0, 64, .rw, 0, .none_, true, false⟩
/-- SC_CTRL.TRAIN_CTX, R398 of 13_training_step.md. -/
def Reg.SC_CTRL.TRAIN_CTX : Fld := ⟨0x1800020, 0, 12, .rw, 0, .none_, true, false⟩
/-- SC_CTRL.SNAP_POLICY, R398 of 13_training_step.md. -/
def Reg.SC_CTRL.SNAP_POLICY : Fld := ⟨0x1800020, 12, 1, .rw, 0, .none_, false, false⟩
/-- SC_CTRL.REPLAY, R398 of 13_training_step.md. -/
def Reg.SC_CTRL.REPLAY : Fld := ⟨0x1800020, 13, 1, .rw, 0, .none_, false, false⟩
/-- SC_RESOLVE_STEP.STEP, R398 of 13_training_step.md. -/
def Reg.SC_RESOLVE_STEP.STEP : Fld := ⟨0x1800028, 0, 64, .rw, 0, .none_, false, false⟩
/-- SC_RESOLVE.COMMIT, R398 of 13_training_step.md. -/
def Reg.SC_RESOLVE.COMMIT : Fld := ⟨0x1800030, 0, 1, .sc, 0, .none_, false, false⟩
/-- SC_RESOLVE.ABORT, R398 of 13_training_step.md. -/
def Reg.SC_RESOLVE.ABORT : Fld := ⟨0x1800030, 1, 1, .sc, 0, .none_, false, false⟩
/-- SC_STALE_W.W1, R398 of 13_training_step.md. -/
def Reg.SC_STALE_W.W1 : Fld := ⟨0x1800038, 0, 16, .rw, 16256, .none_, false, false⟩
/-- SC_STALE_W.W2, R398 of 13_training_step.md. -/
def Reg.SC_STALE_W.W2 : Fld := ⟨0x1800038, 16, 16, .rw, 16256, .none_, false, false⟩
/-- SC_STALE_W.W3, R398 of 13_training_step.md. -/
def Reg.SC_STALE_W.W3 : Fld := ⟨0x1800038, 32, 16, .rw, 16256, .none_, false, false⟩
/-- SC_STALE_W.W4, R398 of 13_training_step.md. -/
def Reg.SC_STALE_W.W4 : Fld := ⟨0x1800038, 48, 16, .rw, 16256, .none_, false, false⟩
/-- SC_LAST.OUTCOME, R398 of 13_training_step.md. -/
def Reg.SC_LAST.OUTCOME : Fld := ⟨0x1800040, 0, 3, .ro, 0, .none_, false, false⟩
/-- SC_LAST.LATE_DECISION, R398 of 13_training_step.md. -/
def Reg.SC_LAST.LATE_DECISION : Fld := ⟨0x1800040, 3, 2, .ro, 0, .none_, false, false⟩
/-- SC_LAST.READY, R398 of 13_training_step.md. -/
def Reg.SC_LAST.READY : Fld := ⟨0x1800040, 16, 13, .ro, 0, .none_, false, false⟩
/-- SC_LAST.MISSING, R398 of 13_training_step.md. -/
def Reg.SC_LAST.MISSING : Fld := ⟨0x1800040, 32, 13, .ro, 0, .none_, false, false⟩
/-- SC_JNL_BASE.ADDR, R398 of 13_training_step.md. -/
def Reg.SC_JNL_BASE.ADDR : Fld := ⟨0x1800048, 7, 57, .rw, 0, .none_, false, false⟩
/-- SC_JNL_CTRL.EN, R398 of 13_training_step.md. -/
def Reg.SC_JNL_CTRL.EN : Fld := ⟨0x1800050, 0, 1, .hwu, 0, .none_, false, false⟩
/-- SC_JNL_CTRL.SIZE_LOG2, R398 of 13_training_step.md. -/
def Reg.SC_JNL_CTRL.SIZE_LOG2 : Fld := ⟨0x1800050, 1, 5, .rw, 10, .outside 4 20, false, false⟩
/-- SC_JNL_HEAD.HEAD, R398 of 13_training_step.md. -/
def Reg.SC_JNL_HEAD.HEAD : Fld := ⟨0x1800058, 0, 32, .ro, 0, .none_, false, false⟩
/-- SC_JNL_TAIL.TAIL, R398 of 13_training_step.md. -/
def Reg.SC_JNL_TAIL.TAIL : Fld := ⟨0x1800060, 0, 32, .rw, 0, .none_, false, false⟩
/-- SC_RPL_BASE.ADDR, R398 of 13_training_step.md. -/
def Reg.SC_RPL_BASE.ADDR : Fld := ⟨0x1800068, 0, 48, .rw, 0, .none_, false, false⟩
/-- SC_RPL_PROD.PROD, R398 of 13_training_step.md. -/
def Reg.SC_RPL_PROD.PROD : Fld := ⟨0x1800070, 0, 32, .rw, 0, .none_, false, false⟩
/-- SC_RPL_PROD.CONS, R398 of 13_training_step.md. -/
def Reg.SC_RPL_PROD.CONS : Fld := ⟨0x1800070, 32, 32, .ro, 0, .none_, false, false⟩
/-- SC_COUNT0.COMMITS, R398 of 13_training_step.md. -/
def Reg.SC_COUNT0.COMMITS : Fld := ⟨0x1800078, 0, 32, .cnt, 0, .none_, false, false⟩
/-- SC_COUNT0.ABORTS, R398 of 13_training_step.md. -/
def Reg.SC_COUNT0.ABORTS : Fld := ⟨0x1800078, 32, 32, .cnt, 0, .none_, false, false⟩
/-- SC_COUNT1.DROPPED, R398 of 13_training_step.md. -/
def Reg.SC_COUNT1.DROPPED : Fld := ⟨0x1800080, 0, 32, .cnt, 0, .none_, false, false⟩
/-- SC_COUNT1.LATE, R398 of 13_training_step.md. -/
def Reg.SC_COUNT1.LATE : Fld := ⟨0x1800080, 32, 32, .cnt, 0, .none_, false, false⟩
/-- LINK_DOMAIN.DX, R433 of 14_link_and_collectives.md. -/
def Reg.LINK_DOMAIN.DX : Fld := ⟨0x800000, 0, 4, .wo1, 0, .none_, false, false⟩
/-- LINK_DOMAIN.DY, R433 of 14_link_and_collectives.md. -/
def Reg.LINK_DOMAIN.DY : Fld := ⟨0x800000, 4, 4, .wo1, 0, .none_, false, false⟩
/-- LINK_DOMAIN.DZ, R433 of 14_link_and_collectives.md. -/
def Reg.LINK_DOMAIN.DZ : Fld := ⟨0x800000, 8, 4, .wo1, 0, .none_, false, false⟩
/-- LINK_DOMAIN.X, R433 of 14_link_and_collectives.md. -/
def Reg.LINK_DOMAIN.X : Fld := ⟨0x800000, 12, 4, .wo1, 0, .none_, false, false⟩
/-- LINK_DOMAIN.Y, R433 of 14_link_and_collectives.md. -/
def Reg.LINK_DOMAIN.Y : Fld := ⟨0x800000, 16, 4, .wo1, 0, .none_, false, false⟩
/-- LINK_DOMAIN.Z, R433 of 14_link_and_collectives.md. -/
def Reg.LINK_DOMAIN.Z : Fld := ⟨0x800000, 20, 4, .wo1, 0, .none_, false, false⟩
/-- LINK_DOMAIN.DOMAIN_ID, R433 of 14_link_and_collectives.md. -/
def Reg.LINK_DOMAIN.DOMAIN_ID : Fld := ⟨0x800000, 32, 16, .wo1, 0, .none_, false, false⟩
/-- LINK_CTRL.JOIN, R433 of 14_link_and_collectives.md. -/
def Reg.LINK_CTRL.JOIN : Fld := ⟨0x800008, 0, 1, .sc, 0, .none_, false, false⟩
/-- LINK_CTRL.LEAVE, R433 of 14_link_and_collectives.md. -/
def Reg.LINK_CTRL.LEAVE : Fld := ⟨0x800008, 1, 1, .sc, 0, .none_, false, false⟩
/-- LINK_CTRL.FUSE_NS, R433 of 14_link_and_collectives.md. -/
def Reg.LINK_CTRL.FUSE_NS : Fld := ⟨0x800008, 16, 16, .rw, 0, .none_, false, false⟩
/-- LINK_STATUS.MSTATE, R433 of 14_link_and_collectives.md. -/
def Reg.LINK_STATUS.MSTATE : Fld := ⟨0x800010, 0, 2, .ro, 0, .none_, false, false⟩
/-- LINK_STATUS.ROOT, R433 of 14_link_and_collectives.md. -/
def Reg.LINK_STATUS.ROOT : Fld := ⟨0x800010, 2, 1, .ro, 0, .none_, false, false⟩
/-- LINK_STATUS.ROOT_IDX, R433 of 14_link_and_collectives.md. -/
def Reg.LINK_STATUS.ROOT_IDX : Fld := ⟨0x800010, 16, 12, .ro, 0, .none_, false, false⟩
/-- LINK_STATUS.MEMBERS, R433 of 14_link_and_collectives.md. -/
def Reg.LINK_STATUS.MEMBERS : Fld := ⟨0x800010, 32, 13, .ro, 0, .none_, false, false⟩
/-- LINK_EPOCH.EPOCH, R433 of 14_link_and_collectives.md. -/
def Reg.LINK_EPOCH.EPOCH : Fld := ⟨0x800018, 0, 32, .ro, 0, .none_, false, false⟩
/-- COLL_STATUS.PEER_LOST_SEEN, R433 of 14_link_and_collectives.md. -/
def Reg.COLL_STATUS.PEER_LOST_SEEN : Fld := ⟨0x800020, 0, 1, .w1c, 0, .none_, false, false⟩
/-- COLL_STATUS.LINK_DOWN_SEEN, R433 of 14_link_and_collectives.md. -/
def Reg.COLL_STATUS.LINK_DOWN_SEEN : Fld := ⟨0x800020, 1, 1, .w1c, 0, .none_, false, false⟩
/-- COLL_STATUS.MAP_CHANGED, R433 of 14_link_and_collectives.md. -/
def Reg.COLL_STATUS.MAP_CHANGED : Fld := ⟨0x800020, 2, 1, .w1c, 0, .none_, false, false⟩
/-- COLL_STATUS.RUNNING, R433 of 14_link_and_collectives.md. -/
def Reg.COLL_STATUS.RUNNING : Fld := ⟨0x800020, 16, 16, .ro, 0, .none_, false, false⟩
/-- COLL_COUNT.DONE, R433 of 14_link_and_collectives.md. -/
def Reg.COLL_COUNT.DONE : Fld := ⟨0x800028, 0, 32, .cnt, 0, .none_, false, false⟩
/-- COLL_COUNT.FUSED, R433 of 14_link_and_collectives.md. -/
def Reg.COLL_COUNT.FUSED : Fld := ⟨0x800028, 32, 32, .cnt, 0, .none_, false, false⟩
/-- LINK_COUNT.NACK_SENT, R433 of 14_link_and_collectives.md. -/
def Reg.LINK_COUNT.NACK_SENT : Fld := ⟨0x800030, 0, 32, .cnt, 0, .none_, false, false⟩
/-- LINK_COUNT.NACK_LOST, R433 of 14_link_and_collectives.md. -/
def Reg.LINK_COUNT.NACK_LOST : Fld := ⟨0x800030, 32, 16, .cnt, 0, .none_, false, true⟩
/-- LINK_COUNT.RESENT, R433 of 14_link_and_collectives.md. -/
def Reg.LINK_COUNT.RESENT : Fld := ⟨0x800030, 48, 16, .cnt, 0, .none_, false, true⟩
/-- LINK_PORT.STATE, R433 of 14_link_and_collectives.md. -/
def Reg.LINK_PORT.STATE (k : Nat) : Fld := ⟨0x800100 + 16 * k, 0, 2, .ro, 0, .none_, false, false⟩
/-- LINK_PORT.MISWIRED, R433 of 14_link_and_collectives.md. -/
def Reg.LINK_PORT.MISWIRED (k : Nat) : Fld := ⟨0x800100 + 16 * k, 2, 1, .ro, 0, .none_, false, false⟩
/-- LINK_PORT.GRANT, R433 of 14_link_and_collectives.md. -/
def Reg.LINK_PORT.GRANT (k : Nat) : Fld := ⟨0x800100 + 16 * k, 3, 1, .ro, 0, .none_, false, false⟩
/-- LINK_PORT.PEER, R433 of 14_link_and_collectives.md. -/
def Reg.LINK_PORT.PEER (k : Nat) : Fld := ⟨0x800100 + 16 * k, 16, 12, .ro, 0, .none_, false, false⟩
/-- LINK_PORT_COUNT.FEC_CORR, R433 of 14_link_and_collectives.md. -/
def Reg.LINK_PORT_COUNT.FEC_CORR (k : Nat) : Fld := ⟨0x800108 + 16 * k, 0, 32, .cnt, 0, .none_, false, false⟩
/-- LINK_PORT_COUNT.RETRIES, R433 of 14_link_and_collectives.md. -/
def Reg.LINK_PORT_COUNT.RETRIES (k : Nat) : Fld := ⟨0x800108 + 16 * k, 32, 32, .cnt, 0, .none_, false, false⟩
/-- LINK_MEMBER.BITS, R433 of 14_link_and_collectives.md. -/
def Reg.LINK_MEMBER.BITS (k : Nat) : Fld := ⟨0x801000 + 8 * k, 0, 64, .ro, 0, .none_, false, false⟩
/-- SB_DONE_SEQ.SEQ, R440 of 15_host_interface.md. -/
def Reg.SB_DONE_SEQ.SEQ (k : Nat) : Fld := ⟨0x100000000 + 4096 * k, 0, 64, .ro, 0, .none_, false, false⟩
/-- SB_ERR_SEQ.SEQ, R440 of 15_host_interface.md. -/
def Reg.SB_ERR_SEQ.SEQ (k : Nat) : Fld := ⟨0x100000008 + 4096 * k, 0, 64, .ro, 0, .none_, false, false⟩
/-- SB_STATE.STATE, R440 of 15_host_interface.md. -/
def Reg.SB_STATE.STATE (k : Nat) : Fld := ⟨0x100000010 + 4096 * k, 0, 3, .ro, 0, .none_, false, false⟩
/-- SB_STATE.QUIET, R440 of 15_host_interface.md. -/
def Reg.SB_STATE.QUIET (k : Nat) : Fld := ⟨0x100000010 + 4096 * k, 3, 1, .ro, 1, .none_, false, false⟩
/-- SB_STATE.LAST_ERR, R440 of 15_host_interface.md. -/
def Reg.SB_STATE.LAST_ERR (k : Nat) : Fld := ⟨0x100000010 + 4096 * k, 4, 4, .ro, 0, .none_, false, false⟩
/-- SB_STATE.ERRORS, R440 of 15_host_interface.md. -/
def Reg.SB_STATE.ERRORS (k : Nat) : Fld := ⟨0x100000010 + 4096 * k, 16, 16, .cnt, 0, .none_, false, true⟩
/-- SB_NOTIFY.TARGET, R440 of 15_host_interface.md. -/
def Reg.SB_NOTIFY.TARGET (k : Nat) : Fld := ⟨0x100000018 + 4096 * k, 0, 64, .rw, 0, .none_, false, false⟩
/-- SB_NOTIFY_CTRL.VEC, R440 of 15_host_interface.md. -/
def Reg.SB_NOTIFY_CTRL.VEC (k : Nat) : Fld := ⟨0x100000020 + 4096 * k, 0, 6, .rw, 2, .outside 2 63, false, false⟩
/-- SB_NOTIFY_CTRL.ARM, R440 of 15_host_interface.md. -/
def Reg.SB_NOTIFY_CTRL.ARM (k : Nat) : Fld := ⟨0x100000020 + 4096 * k, 6, 1, .hwu, 0, .none_, false, false⟩
/-- HI_STATUS.SPEED, R458 of 15_host_interface.md. -/
def Reg.HI_STATUS.SPEED : Fld := ⟨0x10000, 0, 4, .ro, 0, .none_, false, false⟩
/-- HI_STATUS.WIDTH, R458 of 15_host_interface.md. -/
def Reg.HI_STATUS.WIDTH : Fld := ⟨0x10000, 4, 5, .ro, 0, .none_, false, false⟩
/-- HI_STATUS.EVQ_REFUSED, R458 of 15_host_interface.md. -/
def Reg.HI_STATUS.EVQ_REFUSED : Fld := ⟨0x10000, 9, 1, .w1c, 0, .none_, false, false⟩
/-- HI_STATUS.EVQ_LOST, R458 of 15_host_interface.md. -/
def Reg.HI_STATUS.EVQ_LOST : Fld := ⟨0x10000, 10, 1, .w1c, 0, .none_, false, false⟩
/-- HI_STATUS.ALARM_WAIT, R458 of 15_host_interface.md. -/
def Reg.HI_STATUS.ALARM_WAIT : Fld := ⟨0x10000, 11, 1, .ro, 0, .none_, false, false⟩
/-- HI_ACCESS_ERR.COUNT, R458 of 15_host_interface.md. -/
def Reg.HI_ACCESS_ERR.COUNT : Fld := ⟨0x10008, 0, 32, .cnt, 0, .none_, false, true⟩
/-- BAR4_WIN.BASE, R458 of 15_host_interface.md. -/
def Reg.BAR4_WIN.BASE : Fld := ⟨0x10010, 30, 18, .rw, 0, .none_, false, false⟩
/-- EVQ_BASE.ADDR, R458 of 15_host_interface.md. -/
def Reg.EVQ_BASE.ADDR : Fld := ⟨0x10018, 6, 58, .rw, 0, .none_, false, false⟩
/-- EVQ_CTRL.EN, R458 of 15_host_interface.md. -/
def Reg.EVQ_CTRL.EN : Fld := ⟨0x10020, 0, 1, .hwu, 0, .none_, false, false⟩
/-- EVQ_CTRL.SIZE_LOG2, R458 of 15_host_interface.md. -/
def Reg.EVQ_CTRL.SIZE_LOG2 : Fld := ⟨0x10020, 1, 5, .rw, 10, .outside 6 20, false, false⟩
/-- EVQ_CTRL.ALARM_RESV, R458 of 15_host_interface.md. -/
def Reg.EVQ_CTRL.ALARM_RESV : Fld := ⟨0x10020, 6, 7, .rw, 8, .outside 1 64, false, false⟩
/-- EVQ_HEAD.HEAD, R458 of 15_host_interface.md. -/
def Reg.EVQ_HEAD.HEAD : Fld := ⟨0x10028, 0, 32, .ro, 0, .none_, false, false⟩
/-- EVQ_TAIL.TAIL, R458 of 15_host_interface.md. -/
def Reg.EVQ_TAIL.TAIL : Fld := ⟨0x10030, 0, 32, .rw, 0, .none_, false, false⟩
/-- EVQ_OVERFLOW.LOST, R458 of 15_host_interface.md. -/
def Reg.EVQ_OVERFLOW.LOST : Fld := ⟨0x10038, 0, 64, .cnt, 0, .none_, false, true⟩
/-- ETH_PORT.STATE, R459 of 15_host_interface.md. -/
def Reg.ETH_PORT.STATE (k : Nat) : Fld := ⟨0xC00000 + 16 * k, 0, 2, .ro, 0, .none_, false, false⟩
/-- ETH_PORT.GRANT, R459 of 15_host_interface.md. -/
def Reg.ETH_PORT.GRANT (k : Nat) : Fld := ⟨0xC00000 + 16 * k, 2, 1, .ro, 0, .none_, false, false⟩
/-- ETH_PORT.PFC_MASK, R459 of 15_host_interface.md. -/
def Reg.ETH_PORT.PFC_MASK (k : Nat) : Fld := ⟨0xC00000 + 16 * k, 8, 8, .rw, 8, .none_, false, false⟩
/-- ETH_PORT.ROCE_PRIO, R459 of 15_host_interface.md. -/
def Reg.ETH_PORT.ROCE_PRIO (k : Nat) : Fld := ⟨0xC00000 + 16 * k, 16, 3, .rw, 3, .none_, false, false⟩
/-- ETH_PORT.QPS, R459 of 15_host_interface.md. -/
def Reg.ETH_PORT.QPS (k : Nat) : Fld := ⟨0xC00000 + 16 * k, 32, 15, .ro, 0, .none_, false, false⟩
/-- ETH_MAC.ADDR, R459 of 15_host_interface.md. -/
def Reg.ETH_MAC.ADDR (k : Nat) : Fld := ⟨0xC00008 + 16 * k, 0, 48, .ro, 0, .none_, false, false⟩
/-- ETH_COUNT.RETRANS, R459 of 15_host_interface.md. -/
def Reg.ETH_COUNT.RETRANS (k : Nat) : Fld := ⟨0xC00100 + 8 * k, 0, 32, .cnt, 0, .none_, false, false⟩
/-- ETH_COUNT.NAKS, R459 of 15_host_interface.md. -/
def Reg.ETH_COUNT.NAKS (k : Nat) : Fld := ⟨0xC00100 + 8 * k, 32, 32, .cnt, 0, .none_, false, false⟩
/-- MB_STATUS.IN_BUSY, R488 of 16_captain_mailbox_referee.md. -/
def Reg.MB_STATUS.IN_BUSY : Fld := ⟨0x30000, 0, 1, .ro, 0, .none_, false, false⟩
/-- MB_STATUS.OUT_VALID, R488 of 16_captain_mailbox_referee.md. -/
def Reg.MB_STATUS.OUT_VALID : Fld := ⟨0x30000, 1, 1, .ro, 0, .none_, false, false⟩
/-- MB_STATUS.REJECT, R488 of 16_captain_mailbox_referee.md. -/
def Reg.MB_STATUS.REJECT : Fld := ⟨0x30000, 2, 1, .w1c, 0, .none_, false, false⟩
/-- MB_STATUS.FW_READY, R488 of 16_captain_mailbox_referee.md. -/
def Reg.MB_STATUS.FW_READY : Fld := ⟨0x30000, 3, 1, .ro, 0, .none_, false, false⟩
/-- MB_STATUS.FW_RESTARTED, R488 of 16_captain_mailbox_referee.md. -/
def Reg.MB_STATUS.FW_RESTARTED : Fld := ⟨0x30000, 4, 1, .w1c, 0, .none_, false, false⟩
/-- MB_STATUS.INFLIGHT, R488 of 16_captain_mailbox_referee.md. -/
def Reg.MB_STATUS.INFLIGHT : Fld := ⟨0x30000, 8, 6, .ro, 0, .none_, false, false⟩
/-- MB_DOORBELL.IN, R488 of 16_captain_mailbox_referee.md. -/
def Reg.MB_DOORBELL.IN : Fld := ⟨0x30008, 0, 1, .sc, 0, .none_, false, false⟩
/-- MB_DOORBELL.ACK, R488 of 16_captain_mailbox_referee.md. -/
def Reg.MB_DOORBELL.ACK : Fld := ⟨0x30008, 1, 1, .sc, 0, .none_, false, false⟩
/-- MB_FW_VERSION.PATCH, R488 of 16_captain_mailbox_referee.md. -/
def Reg.MB_FW_VERSION.PATCH : Fld := ⟨0x30010, 0, 8, .ro, 0, .none_, false, false⟩
/-- MB_FW_VERSION.MINOR, R488 of 16_captain_mailbox_referee.md. -/
def Reg.MB_FW_VERSION.MINOR : Fld := ⟨0x30010, 8, 8, .ro, 0, .none_, false, false⟩
/-- MB_FW_VERSION.MAJOR, R488 of 16_captain_mailbox_referee.md. -/
def Reg.MB_FW_VERSION.MAJOR : Fld := ⟨0x30010, 16, 8, .ro, 0, .none_, false, false⟩
/-- MB_FW_VERSION.SVN, R488 of 16_captain_mailbox_referee.md. -/
def Reg.MB_FW_VERSION.SVN : Fld := ⟨0x30010, 24, 6, .ro, 0, .none_, false, false⟩
/-- MB_FW_VERSION.SLOT, R488 of 16_captain_mailbox_referee.md. -/
def Reg.MB_FW_VERSION.SLOT : Fld := ⟨0x30010, 32, 1, .ro, 0, .none_, false, false⟩
/-- MB_FW_VERSION.FALLBACK, R488 of 16_captain_mailbox_referee.md. -/
def Reg.MB_FW_VERSION.FALLBACK : Fld := ⟨0x30010, 33, 1, .ro, 0, .none_, false, false⟩
/-- MB_COUNT.REQUESTS, R488 of 16_captain_mailbox_referee.md. -/
def Reg.MB_COUNT.REQUESTS : Fld := ⟨0x30018, 0, 32, .cnt, 0, .none_, false, false⟩
/-- MB_COUNT.RESPONSES, R488 of 16_captain_mailbox_referee.md. -/
def Reg.MB_COUNT.RESPONSES : Fld := ⟨0x30018, 32, 32, .cnt, 0, .none_, false, false⟩
/-- REF_WIN_BASE.BASE, R489 of 16_captain_mailbox_referee.md. -/
def Reg.REF_WIN_BASE.BASE (k : Nat) : Fld := ⟨0x1400000 + 16 * k, 12, 52, .wo1, 0, .none_, false, false⟩
/-- REF_WIN_CTRL.RD, R489 of 16_captain_mailbox_referee.md. -/
def Reg.REF_WIN_CTRL.RD (k : Nat) : Fld := ⟨0x1400008 + 16 * k, 0, 1, .wo1, 0, .none_, false, false⟩
/-- REF_WIN_CTRL.WR, R489 of 16_captain_mailbox_referee.md. -/
def Reg.REF_WIN_CTRL.WR (k : Nat) : Fld := ⟨0x1400008 + 16 * k, 1, 1, .wo1, 0, .none_, false, false⟩
/-- REF_WIN_CTRL.PAGES, R489 of 16_captain_mailbox_referee.md. -/
def Reg.REF_WIN_CTRL.PAGES (k : Nat) : Fld := ⟨0x1400008 + 16 * k, 12, 40, .wo1, 0, .none_, false, false⟩
/-- REF_EVQ_BASE.BASE, R489 of 16_captain_mailbox_referee.md. -/
def Reg.REF_EVQ_BASE.BASE : Fld := ⟨0x1400100, 12, 52, .wo1, 0, .none_, false, false⟩
/-- REF_EVQ_CTRL.PAGES, R489 of 16_captain_mailbox_referee.md. -/
def Reg.REF_EVQ_CTRL.PAGES : Fld := ⟨0x1400108, 0, 32, .wo1, 0, .none_, false, false⟩
/-- REF_GRANT.LINK, R489 of 16_captain_mailbox_referee.md. -/
def Reg.REF_GRANT.LINK : Fld := ⟨0x1400110, 0, 18, .rw, 0, .none_, false, false⟩
/-- REF_GRANT.ETH, R489 of 16_captain_mailbox_referee.md. -/
def Reg.REF_GRANT.ETH : Fld := ⟨0x1400110, 18, 6, .rw, 0, .none_, false, false⟩
/-- REF_CLAMP.P_MAX_W, R489 of 16_captain_mailbox_referee.md. -/
def Reg.REF_CLAMP.P_MAX_W : Fld := ⟨0x1400118, 0, 12, .rw, 3200, .none_, false, false⟩
/-- REF_CLAMP.P_FLOORED, R489 of 16_captain_mailbox_referee.md. -/
def Reg.REF_CLAMP.P_FLOORED : Fld := ⟨0x1400118, 12, 1, .w1c, 0, .none_, false, false⟩
/-- REF_CLAMP.T_MAX_C, R489 of 16_captain_mailbox_referee.md. -/
def Reg.REF_CLAMP.T_MAX_C : Fld := ⟨0x1400118, 16, 7, .rw, 105, .none_, false, false⟩
/-- REF_CLAMP.PWR_ACTIVE, R489 of 16_captain_mailbox_referee.md. -/
def Reg.REF_CLAMP.PWR_ACTIVE : Fld := ⟨0x1400118, 32, 1, .ro, 0, .none_, false, false⟩
/-- REF_CLAMP.HOLD_ACTIVE, R489 of 16_captain_mailbox_referee.md. -/
def Reg.REF_CLAMP.HOLD_ACTIVE : Fld := ⟨0x1400118, 33, 1, .ro, 0, .none_, false, false⟩
/-- REF_WDOG.KICK, R489 of 16_captain_mailbox_referee.md. -/
def Reg.REF_WDOG.KICK : Fld := ⟨0x1400120, 0, 1, .sc, 0, .none_, false, false⟩
/-- REF_WDOG.PERIOD_MS, R489 of 16_captain_mailbox_referee.md. -/
def Reg.REF_WDOG.PERIOD_MS : Fld := ⟨0x1400120, 8, 8, .rw, 100, .outside 10 255, false, false⟩
/-- REF_WDOG.STATE, R489 of 16_captain_mailbox_referee.md. -/
def Reg.REF_WDOG.STATE : Fld := ⟨0x1400120, 16, 2, .ro, 0, .none_, false, false⟩
/-- REF_WDOG.EXPIRIES, R489 of 16_captain_mailbox_referee.md. -/
def Reg.REF_WDOG.EXPIRIES : Fld := ⟨0x1400120, 32, 16, .cnt, 0, .none_, false, true⟩
/-- REF_RATE.CAPT_MBPS, R489 of 16_captain_mailbox_referee.md. -/
def Reg.REF_RATE.CAPT_MBPS : Fld := ⟨0x1400128, 0, 16, .rw, 1000, .outside 1 65535, false, false⟩
/-- REF_RATE.ETH_SHARE, R489 of 16_captain_mailbox_referee.md. -/
def Reg.REF_RATE.ETH_SHARE : Fld := ⟨0x1400128, 16, 7, .rw, 64, .outside 1 64, false, false⟩
/-- REF_RATE.LINK_SHARE, R489 of 16_captain_mailbox_referee.md. -/
def Reg.REF_RATE.LINK_SHARE : Fld := ⟨0x1400128, 24, 7, .rw, 64, .outside 1 64, false, false⟩
/-- REF_RATE.ALARM_PER_S, R489 of 16_captain_mailbox_referee.md. -/
def Reg.REF_RATE.ALARM_PER_S : Fld := ⟨0x1400128, 32, 10, .rw, 16, .outside 1 1000, false, false⟩
/-- REF_STATUS.DENY_SEEN, R489 of 16_captain_mailbox_referee.md. -/
def Reg.REF_STATUS.DENY_SEEN : Fld := ⟨0x1400130, 0, 1, .w1c, 0, .none_, false, false⟩
/-- REF_STATUS.WDOG_SEEN, R489 of 16_captain_mailbox_referee.md. -/
def Reg.REF_STATUS.WDOG_SEEN : Fld := ⟨0x1400130, 1, 1, .w1c, 0, .none_, false, false⟩
/-- REF_STATUS.CLAMP_SEEN, R489 of 16_captain_mailbox_referee.md. -/
def Reg.REF_STATUS.CLAMP_SEEN : Fld := ⟨0x1400130, 2, 1, .w1c, 0, .none_, false, false⟩
/-- REF_STATUS.HOLD_SEEN, R489 of 16_captain_mailbox_referee.md. -/
def Reg.REF_STATUS.HOLD_SEEN : Fld := ⟨0x1400130, 3, 1, .w1c, 0, .none_, false, false⟩
/-- REF_STATUS.LAST_DENY_SRC, R489 of 16_captain_mailbox_referee.md. -/
def Reg.REF_STATUS.LAST_DENY_SRC : Fld := ⟨0x1400130, 16, 3, .ro, 0, .none_, false, false⟩
/-- REF_COUNT.DENIED, R489 of 16_captain_mailbox_referee.md. -/
def Reg.REF_COUNT.DENIED : Fld := ⟨0x1400138, 0, 32, .cnt, 0, .none_, false, false⟩
/-- REF_COUNT.THROTTLE_US, R489 of 16_captain_mailbox_referee.md. -/
def Reg.REF_COUNT.THROTTLE_US : Fld := ⟨0x1400138, 32, 32, .cnt, 0, .none_, false, false⟩
/-- REF_DENY_ADDR.ADDR, R489 of 16_captain_mailbox_referee.md. -/
def Reg.REF_DENY_ADDR.ADDR : Fld := ⟨0x1400140, 0, 64, .ro, 0, .none_, false, false⟩
/-- FLT_STATUS.CAUSE, R520 of 17_faults_and_containment.md. -/
def Reg.FLT_STATUS.CAUSE : Fld := ⟨0x1200000, 0, 3, .ro, 0, .none_, true, false⟩
/-- FLT_STATUS.TEST_LOCKED, R520 of 17_faults_and_containment.md. -/
def Reg.FLT_STATUS.TEST_LOCKED : Fld := ⟨0x1200000, 3, 1, .ro, 1, .none_, false, false⟩
/-- FLT_STATUS.D_TYPE, R520 of 17_faults_and_containment.md. -/
def Reg.FLT_STATUS.D_TYPE : Fld := ⟨0x1200000, 16, 16, .ro, 0, .none_, true, false⟩
/-- FLT_STATUS.RESETS, R520 of 17_faults_and_containment.md. -/
def Reg.FLT_STATUS.RESETS : Fld := ⟨0x1200000, 32, 32, .cnt, 0, .none_, true, false⟩
/-- FLT_WHISTLE_TIME.TIME, R520 of 17_faults_and_containment.md. -/
def Reg.FLT_WHISTLE_TIME.TIME : Fld := ⟨0x1200008, 0, 64, .ro, 0, .none_, true, false⟩
/-- FLT_CTRL.WINDOW_US, R520 of 17_faults_and_containment.md. -/
def Reg.FLT_CTRL.WINDOW_US : Fld := ⟨0x1200010, 0, 16, .rw, 1000, .outside 1 65535, false, false⟩
/-- FLT_CTRL.TRACE_SUBSYS, R520 of 17_faults_and_containment.md. -/
def Reg.FLT_CTRL.TRACE_SUBSYS : Fld := ⟨0x1200010, 16, 16, .rw, 0, .none_, false, false⟩
/-- FLT_TRC_BASE.ADDR, R520 of 17_faults_and_containment.md. -/
def Reg.FLT_TRC_BASE.ADDR : Fld := ⟨0x1200018, 0, 48, .rw, 0, .none_, false, false⟩
/-- FLT_TRC_CTRL.EN, R520 of 17_faults_and_containment.md. -/
def Reg.FLT_TRC_CTRL.EN : Fld := ⟨0x1200020, 0, 1, .rw, 0, .none_, false, false⟩
/-- FLT_TRC_CTRL.SIZE_LOG2, R520 of 17_faults_and_containment.md. -/
def Reg.FLT_TRC_CTRL.SIZE_LOG2 : Fld := ⟨0x1200020, 1, 5, .rw, 16, .outside 10 26, false, false⟩
/-- FLT_TRC_HEAD.HEAD, R520 of 17_faults_and_containment.md. -/
def Reg.FLT_TRC_HEAD.HEAD : Fld := ⟨0x1200028, 0, 64, .ro, 0, .none_, false, false⟩
/-- FLT_TRC_TAIL.TAIL, R520 of 17_faults_and_containment.md. -/
def Reg.FLT_TRC_TAIL.TAIL : Fld := ⟨0x1200030, 0, 64, .rw, 0, .none_, false, false⟩
/-- FLT_TRC_OVERWRITTEN.COUNT, R520 of 17_faults_and_containment.md. -/
def Reg.FLT_TRC_OVERWRITTEN.COUNT : Fld := ⟨0x1200038, 0, 64, .cnt, 0, .none_, false, true⟩
/-- FLT_TRC_SKIPPED.COUNT, R520 of 17_faults_and_containment.md. -/
def Reg.FLT_TRC_SKIPPED.COUNT : Fld := ⟨0x1200040, 0, 64, .cnt, 0, .none_, false, true⟩
/-- FLT_CLASS_C.COUNT, R520 of 17_faults_and_containment.md. -/
def Reg.FLT_CLASS_C.COUNT : Fld := ⟨0x1200048, 0, 64, .cnt, 0, .none_, false, true⟩
/-- FLT_CLASS_P.COUNT, R520 of 17_faults_and_containment.md. -/
def Reg.FLT_CLASS_P.COUNT : Fld := ⟨0x1200050, 0, 64, .cnt, 0, .none_, false, true⟩
/-- FLT_CLASS_Q.COUNT, R520 of 17_faults_and_containment.md. -/
def Reg.FLT_CLASS_Q.COUNT : Fld := ⟨0x1200058, 0, 64, .cnt, 0, .none_, false, true⟩
/-- FLT_CLASS_D.COUNT, R520 of 17_faults_and_containment.md. -/
def Reg.FLT_CLASS_D.COUNT : Fld := ⟨0x1200060, 0, 64, .cnt, 0, .none_, true, true⟩
/-- FLT_ALARM.COUNT, R520 of 17_faults_and_containment.md. -/
def Reg.FLT_ALARM.COUNT : Fld := ⟨0x1200068, 0, 64, .cnt, 0, .none_, true, true⟩
/-- FLT_ALARM_Q.RING_WAIT, R520 of 17_faults_and_containment.md. -/
def Reg.FLT_ALARM_Q.RING_WAIT : Fld := ⟨0x1200070, 0, 13, .ro, 0, .none_, true, false⟩
/-- FLT_ALARM_Q.HALL_WAIT, R520 of 17_faults_and_containment.md. -/
def Reg.FLT_ALARM_Q.HALL_WAIT : Fld := ⟨0x1200070, 16, 13, .ro, 0, .none_, true, false⟩
/-- FLT_WHISTLE_DONE.SEQ, R521 of 17_faults_and_containment.md. -/
def Reg.FLT_WHISTLE_DONE.SEQ (k : Nat) : Fld := ⟨0x1210000 + 8 * k, 0, 64, .ro, 0, .none_, true, false⟩
/-- PWR_CTRL.CAP_W, R546 of 18_clocks_power_thermal.md. -/
def Reg.PWR_CTRL.CAP_W : Fld := ⟨0x1000000, 0, 12, .rw, 3200, .none_, false, false⟩
/-- PWR_CTRL.BOOST_EN, R546 of 18_clocks_power_thermal.md. -/
def Reg.PWR_CTRL.BOOST_EN : Fld := ⟨0x1000000, 12, 1, .rw, 0, .none_, false, false⟩
/-- PWR_CTRL.WARN_C, R546 of 18_clocks_power_thermal.md. -/
def Reg.PWR_CTRL.WARN_C : Fld := ⟨0x1000000, 16, 7, .rw, 95, .none_, false, false⟩
/-- PWR_CTRL.BOOST_T_C, R546 of 18_clocks_power_thermal.md. -/
def Reg.PWR_CTRL.BOOST_T_C : Fld := ⟨0x1000000, 24, 7, .rw, 85, .none_, false, false⟩
/-- PWR_STATUS.CAP_FLOORED, R546 of 18_clocks_power_thermal.md. -/
def Reg.PWR_STATUS.CAP_FLOORED : Fld := ⟨0x1000008, 0, 1, .w1c, 0, .none_, false, false⟩
/-- PWR_STATUS.CAPPING, R546 of 18_clocks_power_thermal.md. -/
def Reg.PWR_STATUS.CAPPING : Fld := ⟨0x1000008, 1, 1, .ro, 0, .none_, false, false⟩
/-- PWR_STATUS.NBR_SEEN, R546 of 18_clocks_power_thermal.md. -/
def Reg.PWR_STATUS.NBR_SEEN : Fld := ⟨0x1000008, 2, 1, .w1c, 0, .none_, false, false⟩
/-- PWR_STATUS.WARN_SEEN, R546 of 18_clocks_power_thermal.md. -/
def Reg.PWR_STATUS.WARN_SEEN : Fld := ⟨0x1000008, 3, 1, .w1c, 0, .none_, false, false⟩
/-- PWR_STATUS.HBM_HOT_SEEN, R546 of 18_clocks_power_thermal.md. -/
def Reg.PWR_STATUS.HBM_HOT_SEEN : Fld := ⟨0x1000008, 4, 1, .w1c, 0, .none_, false, false⟩
/-- PWR_STATUS.DITHER, R546 of 18_clocks_power_thermal.md. -/
def Reg.PWR_STATUS.DITHER : Fld := ⟨0x1000008, 16, 6, .ro, 0, .none_, false, false⟩
/-- PWR_STATUS.DRAW_W, R546 of 18_clocks_power_thermal.md. -/
def Reg.PWR_STATUS.DRAW_W : Fld := ⟨0x1000008, 32, 12, .ro, 0, .none_, false, false⟩
/-- PWR_STATUS.CLK_MHZ, R546 of 18_clocks_power_thermal.md. -/
def Reg.PWR_STATUS.CLK_MHZ : Fld := ⟨0x1000008, 44, 11, .ro, 1200, .none_, false, false⟩
/-- PWR_COUNT.DITHER_MS, R546 of 18_clocks_power_thermal.md. -/
def Reg.PWR_COUNT.DITHER_MS : Fld := ⟨0x1000010, 0, 32, .cnt, 0, .none_, false, true⟩
/-- PWR_COUNT.NBR_HOLDS, R546 of 18_clocks_power_thermal.md. -/
def Reg.PWR_COUNT.NBR_HOLDS : Fld := ⟨0x1000010, 32, 32, .cnt, 0, .none_, false, true⟩
/-- PWR_GATE.ISLAND, R546 of 18_clocks_power_thermal.md. -/
def Reg.PWR_GATE.ISLAND : Fld := ⟨0x1000018, 0, 10, .rw, 0, .none_, false, false⟩
/-- PWR_GATE.ALL_DIE, R546 of 18_clocks_power_thermal.md. -/
def Reg.PWR_GATE.ALL_DIE : Fld := ⟨0x1000018, 10, 1, .rw, 0, .none_, false, false⟩
/-- PWR_GATE.UP, R546 of 18_clocks_power_thermal.md. -/
def Reg.PWR_GATE.UP : Fld := ⟨0x1000018, 11, 1, .rw, 0, .none_, false, false⟩
/-- PWR_GATE.GO, R546 of 18_clocks_power_thermal.md. -/
def Reg.PWR_GATE.GO : Fld := ⟨0x1000018, 12, 1, .sc, 0, .none_, false, false⟩
/-- PWR_GATE_STATUS.BUSY, R546 of 18_clocks_power_thermal.md. -/
def Reg.PWR_GATE_STATUS.BUSY : Fld := ⟨0x1000020, 0, 1, .ro, 0, .none_, false, false⟩
/-- PWR_GATE_STATUS.REFUSED, R546 of 18_clocks_power_thermal.md. -/
def Reg.PWR_GATE_STATUS.REFUSED : Fld := ⟨0x1000020, 1, 1, .w1c, 0, .none_, false, false⟩
/-- MEM_HBM_TEMP.TEMP_C, R546 of 18_clocks_power_thermal.md. -/
def Reg.MEM_HBM_TEMP.TEMP_C (k : Nat) : Fld := ⟨0x1000100 + 8 * k, 0, 7, .ro, 0, .none_, false, false⟩
/-- MEM_HBM_TEMP.HOT, R546 of 18_clocks_power_thermal.md. -/
def Reg.MEM_HBM_TEMP.HOT (k : Nat) : Fld := ⟨0x1000100 + 8 * k, 7, 1, .ro, 0, .none_, false, false⟩
/-- ISL_STATE.FREQ_MHZ, R546 of 18_clocks_power_thermal.md. -/
def Reg.ISL_STATE.FREQ_MHZ (k : Nat) : Fld := ⟨0x1001000 + 8 * k, 0, 11, .ro, 0, .none_, false, false⟩
/-- ISL_STATE.STATE, R546 of 18_clocks_power_thermal.md. -/
def Reg.ISL_STATE.STATE (k : Nat) : Fld := ⟨0x1001000 + 8 * k, 12, 3, .ro, 0, .none_, false, false⟩
/-- ISL_STATE.HOLD, R546 of 18_clocks_power_thermal.md. -/
def Reg.ISL_STATE.HOLD (k : Nat) : Fld := ⟨0x1001000 + 8 * k, 16, 5, .ro, 0, .none_, false, false⟩
/-- ISL_STATE.VOLT_MV, R546 of 18_clocks_power_thermal.md. -/
def Reg.ISL_STATE.VOLT_MV (k : Nat) : Fld := ⟨0x1001000 + 8 * k, 32, 10, .ro, 0, .none_, false, false⟩
/-- ISL_STATE.TEMP_C, R546 of 18_clocks_power_thermal.md. -/
def Reg.ISL_STATE.TEMP_C (k : Nat) : Fld := ⟨0x1001000 + 8 * k, 42, 7, .ro, 0, .none_, false, false⟩
/-- ISL_STATE.TRIM, R546 of 18_clocks_power_thermal.md. -/
def Reg.ISL_STATE.TRIM (k : Nat) : Fld := ⟨0x1001000 + 8 * k, 49, 4, .ro, 0, .none_, false, false⟩
/-- BOOT_STATUS.STAGE, R562 of 19_pins_and_bring_up.md. -/
def Reg.BOOT_STATUS.STAGE : Fld := ⟨0x300, 0, 3, .ro, 1, .none_, false, false⟩
/-- BOOT_STATUS.FAIL, R562 of 19_pins_and_bring_up.md. -/
def Reg.BOOT_STATUS.FAIL : Fld := ⟨0x300, 4, 4, .ro, 0, .none_, false, false⟩
/-- BOOT_STATUS.STAGE_MS, R562 of 19_pins_and_bring_up.md. -/
def Reg.BOOT_STATUS.STAGE_MS : Fld := ⟨0x300, 32, 16, .ro, 0, .none_, false, false⟩
/-- STRAP_STATUS.ADDR, R562 of 19_pins_and_bring_up.md. -/
def Reg.STRAP_STATUS.ADDR : Fld := ⟨0x308, 0, 3, .ro, 0, .none_, false, false⟩
/-- STRAP_STATUS.REFCLK_SEL, R562 of 19_pins_and_bring_up.md. -/
def Reg.STRAP_STATUS.REFCLK_SEL : Fld := ⟨0x308, 3, 1, .ro, 0, .none_, false, false⟩

/-- The registers of BAR0 and of the scoreboard pages, part 0. -/
def regRows0 : List RegRow := [
  ⟨0x100, 8, 1, fun _ => [Reg.LOCK_STATUS.LOCK_VIOLATION, Reg.LOCK_STATUS.LAST_SRC, Reg.LOCK_STATUS.VIOL_COUNT]⟩,
  ⟨0x108, 8, 1, fun _ => [Reg.LOCK_LAST_ADDR.ADDR]⟩,
  ⟨0x110, 8, 1, fun _ => [Reg.WR_COLLIDE.COUNT, Reg.WR_COLLIDE.ADDR, Reg.WR_COLLIDE.SRC, Reg.WR_COLLIDE.BAR]⟩,
  ⟨0x2000000, 8, 1, fun _ => [Reg.TW_TARGET.TILE, Reg.TW_TARGET.SPACE, Reg.TW_TARGET.OFFSET]⟩,
  ⟨0x2000008, 8, 1, fun _ => [Reg.TW_CMD.GO, Reg.TW_CMD.DIR, Reg.TW_CMD.WORDS]⟩,
  ⟨0x2000010, 8, 1, fun _ => [Reg.TW_STATUS.BUSY, Reg.TW_STATUS.ERR, Reg.TW_STATUS.REJECT, Reg.TW_STATUS.SEQ]⟩,
  ⟨0x2000040, 8, 8, fun k => [Reg.TW_DATA.DATA k]⟩,
  ⟨0x200, 8, 1, fun _ => [Reg.FIT_STATUS.VALID, Reg.FIT_STATUS.UNFIT, Reg.FIT_STATUS.BOOT_SEQ]⟩,
  ⟨0x200000, 8, 1, fun _ => [Reg.POLICY_CTRL.ACTIVE_GEN, Reg.POLICY_CTRL.PENDING_GEN, Reg.POLICY_CTRL.CAL_EN, Reg.POLICY_CTRL.CAL_OWNER]⟩,
  ⟨0x200008, 8, 1, fun _ => [Reg.POLICY_STATUS.FLIP_PENDING, Reg.POLICY_STATUS.STAGED, Reg.POLICY_STATUS.BUDGET_EXCESS, Reg.POLICY_STATUS.CAL_OVERFLOW, Reg.POLICY_STATUS.RESOLVING]⟩,
  ⟨0x200010, 8, 1, fun _ => [Reg.POLICY_FLIP_STEP.STEP]⟩,
  ⟨0x200018, 8, 1, fun _ => [Reg.POLICY_COUNT0.RECORDS, Reg.POLICY_COUNT0.EXCESS]⟩,
  ⟨0x200020, 8, 1, fun _ => [Reg.POLICY_COUNT1.CAL_SAMPLED, Reg.POLICY_COUNT1.CAL_MISSED]⟩,
  ⟨0x200038, 8, 1, fun _ => [Reg.CAL_STAGE_BASE.ADDR]⟩,
  ⟨0x200040, 8, 1, fun _ => [Reg.CAL_LOG_BASE.ADDR]⟩,
  ⟨0x200048, 8, 1, fun _ => [Reg.CAL_LOG_SIZE.LOG2]⟩,
  ⟨0x200050, 8, 1, fun _ => [Reg.CAL_LOG_HEAD.HEAD]⟩,
  ⟨0x200058, 8, 1, fun _ => [Reg.CAL_LOG_TAIL.TAIL]⟩,
  ⟨0x200060, 8, 1, fun _ => [Reg.CAL_DROP.DROPPED]⟩,
  ⟨0x100000, 8, 1, fun _ => [Reg.FILTAS_SCORE_CFG.POLL]⟩]

/-- The registers of BAR0 and of the scoreboard pages, part 1. -/
def regRows1 : List RegRow := [
  ⟨0x100008, 8, 1, fun _ => [Reg.FILTAS_SCORE_STATUS.TIE_SEEN, Reg.FILTAS_SCORE_STATUS.MISS_SEEN, Reg.FILTAS_SCORE_STATUS.MULTI_SEEN, Reg.FILTAS_SCORE_STATUS.MISMATCH_SEEN, Reg.FILTAS_SCORE_STATUS.STALLED, Reg.FILTAS_SCORE_STATUS.STREAMS]⟩,
  ⟨0x100010, 8, 1, fun _ => [Reg.FILTAS_SCORE_COUNT0.RESULTS]⟩,
  ⟨0x100018, 8, 1, fun _ => [Reg.FILTAS_SCORE_COUNT1.TIE_TREES, Reg.FILTAS_SCORE_COUNT1.MISS_TREES]⟩,
  ⟨0x100020, 8, 1, fun _ => [Reg.FILTAS_SCORE_COUNT2.MULTI_TREES, Reg.FILTAS_SCORE_COUNT2.MISMATCHES]⟩,
  ⟨0x100028, 8, 1, fun _ => [Reg.FILTAS_SCORE_COUNT3.RING_STALL]⟩,
  ⟨0x100100, 8, 1, fun _ => [Reg.FILTAS_PAT_STATUS.TRUNC_SEEN, Reg.FILTAS_PAT_STATUS.BAD_SEEN, Reg.FILTAS_PAT_STATUS.STALLED, Reg.FILTAS_PAT_STATUS.STREAMS]⟩,
  ⟨0x100108, 8, 1, fun _ => [Reg.FILTAS_PAT_COUNT0.BYTES]⟩,
  ⟨0x100110, 8, 1, fun _ => [Reg.FILTAS_PAT_COUNT1.REPORTS, Reg.FILTAS_PAT_COUNT1.TRUNC_REPORTS]⟩,
  ⟨0x100118, 8, 1, fun _ => [Reg.FILTAS_PAT_COUNT2.REDACTED, Reg.FILTAS_PAT_COUNT2.DROPPED]⟩,
  ⟨0x400000, 8, 1, fun _ => [Reg.MEM_INFO.STACKS, Reg.MEM_INFO.N, Reg.MEM_INFO.PRESERVED, Reg.MEM_INFO.USABLE_GIB]⟩,
  ⟨0x400008, 8, 1, fun _ => [Reg.MEM_CTRL.SCRUB_HOURS]⟩,
  ⟨0x400010, 8, 1, fun _ => [Reg.MEM_STATUS.CE_SEEN, Reg.MEM_STATUS.UE_SEEN, Reg.MEM_STATUS.POISON_READ, Reg.MEM_STATUS.SRAM_CE_SEEN, Reg.MEM_STATUS.SRAM_UE_SEEN]⟩,
  ⟨0x400018, 8, 1, fun _ => [Reg.MEM_UE_ADDR.ADDR, Reg.MEM_UE_ADDR.STACK]⟩,
  ⟨0x400020, 8, 1, fun _ => [Reg.MEM_REFRESH.HOT]⟩,
  ⟨0x400028, 8, 1, fun _ => [Reg.MEM_SRAM_COUNT.CE, Reg.MEM_SRAM_COUNT.UE]⟩,
  ⟨0x400100, 8, 12, fun k => [Reg.MEM_STACK_COUNT.CE k, Reg.MEM_STACK_COUNT.UE k]⟩,
  ⟨0x40000, 8, 1, fun _ => [Reg.SUBQ_BASE.ADDR]⟩,
  ⟨0x40008, 8, 1, fun _ => [Reg.SUBQ_CTRL.EN, Reg.SUBQ_CTRL.SIZE_LOG2]⟩,
  ⟨0x40010, 8, 1, fun _ => [Reg.SUBQ_TAIL.TAIL]⟩,
  ⟨0x40018, 8, 1, fun _ => [Reg.SUBQ_HEAD.HEAD]⟩]

/-- The registers of BAR0 and of the scoreboard pages, part 2. -/
def regRows2 : List RegRow := [
  ⟨0x40020, 8, 1, fun _ => [Reg.FE_STATUS.FETCHING, Reg.FE_STATUS.RING_ERR, Reg.FE_STATUS.PARSE_SEEN, Reg.FE_STATUS.PRIV_SEEN, Reg.FE_STATUS.QUOTA_OVER_SEEN, Reg.FE_STATUS.LAST_ERR_CTX]⟩,
  ⟨0x40028, 8, 1, fun _ => [Reg.FE_COUNT0.BUFFERS, Reg.FE_COUNT0.OPS]⟩,
  ⟨0x40030, 8, 1, fun _ => [Reg.FE_COUNT1.REJECTED, Reg.FE_COUNT1.DISCARDED]⟩,
  ⟨0x40038, 8, 1, fun _ => [Reg.FE_INFLIGHT.OPS, Reg.FE_INFLIGHT.CONTEXTS, Reg.FE_INFLIGHT.RT]⟩,
  ⟨0x60000, 32, 4096, fun k => [Reg.CTX_INFO.STATE k, Reg.CTX_INFO.RT k, Reg.CTX_INFO.RANK k, Reg.CTX_INFO.LAST_ERR k]⟩,
  ⟨0x60008, 32, 4096, fun k => [Reg.CTX_QUOTA.SHARE k, Reg.CTX_QUOTA.STREAMS k, Reg.CTX_QUOTA.OUTSTANDING k]⟩,
  ⟨0x60010, 32, 4096, fun k => [Reg.CTX_USAGE.TILES k, Reg.CTX_USAGE.STREAMS k, Reg.CTX_USAGE.OUTSTANDING k]⟩,
  ⟨0x60018, 32, 4096, fun k => [Reg.CTX_TIMEOUT.LIMIT_MS k, Reg.CTX_TIMEOUT.OPS k]⟩,
  ⟨0x80000, 8, 1, fun _ => [Reg.SE_STATUS.OVERRUN_SEEN, Reg.SE_STATUS.SEM_OVF_SEEN, Reg.SE_STATUS.NACK_SEEN, Reg.SE_STATUS.FABRIC_TREES]⟩,
  ⟨0x80008, 8, 1, fun _ => [Reg.SE_COUNT0.BURSTS, Reg.SE_COUNT0.TRANSFERS]⟩,
  ⟨0x80010, 8, 1, fun _ => [Reg.SE_COUNT1.OVERRUNS, Reg.SE_COUNT1.SEM_WAITED]⟩,
  ⟨0x80018, 8, 1, fun _ => [Reg.SE_OVERRUN_LAST.EXCESS_NS, Reg.SE_OVERRUN_LAST.CTX]⟩,
  ⟨0x80100, 8, 19, fun k => [Reg.SE_UNIT.FREE k, Reg.SE_UNIT.TREES k]⟩,
  ⟨0x80, 8, 1, fun _ => [Reg.GLOBAL_MODE.DET]⟩,
  ⟨0x1800000, 8, 1, fun _ => [Reg.SC_STATUS.PHASE, Reg.SC_STATUS.COMMIT_SLOT, Reg.SC_STATUS.RETAINED, Reg.SC_STATUS.STEP_FAULT, Reg.SC_STATUS.PIN0, Reg.SC_STATUS.PIN1]⟩,
  ⟨0x1800008, 8, 1, fun _ => [Reg.SC_STEP.COUNT]⟩,
  ⟨0x1800010, 8, 1, fun _ => [Reg.SC_SEED_LO.SEED]⟩,
  ⟨0x1800018, 8, 1, fun _ => [Reg.SC_SEED_HI.SEED]⟩,
  ⟨0x1800020, 8, 1, fun _ => [Reg.SC_CTRL.TRAIN_CTX, Reg.SC_CTRL.SNAP_POLICY, Reg.SC_CTRL.REPLAY]⟩,
  ⟨0x1800028, 8, 1, fun _ => [Reg.SC_RESOLVE_STEP.STEP]⟩]

/-- The registers of BAR0 and of the scoreboard pages, part 3. -/
def regRows3 : List RegRow := [
  ⟨0x1800030, 8, 1, fun _ => [Reg.SC_RESOLVE.COMMIT, Reg.SC_RESOLVE.ABORT]⟩,
  ⟨0x1800038, 8, 1, fun _ => [Reg.SC_STALE_W.W1, Reg.SC_STALE_W.W2, Reg.SC_STALE_W.W3, Reg.SC_STALE_W.W4]⟩,
  ⟨0x1800040, 8, 1, fun _ => [Reg.SC_LAST.OUTCOME, Reg.SC_LAST.LATE_DECISION, Reg.SC_LAST.READY, Reg.SC_LAST.MISSING]⟩,
  ⟨0x1800048, 8, 1, fun _ => [Reg.SC_JNL_BASE.ADDR]⟩,
  ⟨0x1800050, 8, 1, fun _ => [Reg.SC_JNL_CTRL.EN, Reg.SC_JNL_CTRL.SIZE_LOG2]⟩,
  ⟨0x1800058, 8, 1, fun _ => [Reg.SC_JNL_HEAD.HEAD]⟩,
  ⟨0x1800060, 8, 1, fun _ => [Reg.SC_JNL_TAIL.TAIL]⟩,
  ⟨0x1800068, 8, 1, fun _ => [Reg.SC_RPL_BASE.ADDR]⟩,
  ⟨0x1800070, 8, 1, fun _ => [Reg.SC_RPL_PROD.PROD, Reg.SC_RPL_PROD.CONS]⟩,
  ⟨0x1800078, 8, 1, fun _ => [Reg.SC_COUNT0.COMMITS, Reg.SC_COUNT0.ABORTS]⟩,
  ⟨0x1800080, 8, 1, fun _ => [Reg.SC_COUNT1.DROPPED, Reg.SC_COUNT1.LATE]⟩,
  ⟨0x800000, 8, 1, fun _ => [Reg.LINK_DOMAIN.DX, Reg.LINK_DOMAIN.DY, Reg.LINK_DOMAIN.DZ, Reg.LINK_DOMAIN.X, Reg.LINK_DOMAIN.Y, Reg.LINK_DOMAIN.Z, Reg.LINK_DOMAIN.DOMAIN_ID]⟩,
  ⟨0x800008, 8, 1, fun _ => [Reg.LINK_CTRL.JOIN, Reg.LINK_CTRL.LEAVE, Reg.LINK_CTRL.FUSE_NS]⟩,
  ⟨0x800010, 8, 1, fun _ => [Reg.LINK_STATUS.MSTATE, Reg.LINK_STATUS.ROOT, Reg.LINK_STATUS.ROOT_IDX, Reg.LINK_STATUS.MEMBERS]⟩,
  ⟨0x800018, 8, 1, fun _ => [Reg.LINK_EPOCH.EPOCH]⟩,
  ⟨0x800020, 8, 1, fun _ => [Reg.COLL_STATUS.PEER_LOST_SEEN, Reg.COLL_STATUS.LINK_DOWN_SEEN, Reg.COLL_STATUS.MAP_CHANGED, Reg.COLL_STATUS.RUNNING]⟩,
  ⟨0x800028, 8, 1, fun _ => [Reg.COLL_COUNT.DONE, Reg.COLL_COUNT.FUSED]⟩,
  ⟨0x800030, 8, 1, fun _ => [Reg.LINK_COUNT.NACK_SENT, Reg.LINK_COUNT.NACK_LOST, Reg.LINK_COUNT.RESENT]⟩,
  ⟨0x800100, 16, 18, fun k => [Reg.LINK_PORT.STATE k, Reg.LINK_PORT.MISWIRED k, Reg.LINK_PORT.GRANT k, Reg.LINK_PORT.PEER k]⟩,
  ⟨0x800108, 16, 18, fun k => [Reg.LINK_PORT_COUNT.FEC_CORR k, Reg.LINK_PORT_COUNT.RETRIES k]⟩]

/-- The registers of BAR0 and of the scoreboard pages, part 4. -/
def regRows4 : List RegRow := [
  ⟨0x801000, 8, 64, fun k => [Reg.LINK_MEMBER.BITS k]⟩,
  ⟨0x100000000, 4096, 4096, fun k => [Reg.SB_DONE_SEQ.SEQ k]⟩,
  ⟨0x100000008, 4096, 4096, fun k => [Reg.SB_ERR_SEQ.SEQ k]⟩,
  ⟨0x100000010, 4096, 4096, fun k => [Reg.SB_STATE.STATE k, Reg.SB_STATE.QUIET k, Reg.SB_STATE.LAST_ERR k, Reg.SB_STATE.ERRORS k]⟩,
  ⟨0x100000018, 4096, 4096, fun k => [Reg.SB_NOTIFY.TARGET k]⟩,
  ⟨0x100000020, 4096, 4096, fun k => [Reg.SB_NOTIFY_CTRL.VEC k, Reg.SB_NOTIFY_CTRL.ARM k]⟩,
  ⟨0x10000, 8, 1, fun _ => [Reg.HI_STATUS.SPEED, Reg.HI_STATUS.WIDTH, Reg.HI_STATUS.EVQ_REFUSED, Reg.HI_STATUS.EVQ_LOST, Reg.HI_STATUS.ALARM_WAIT]⟩,
  ⟨0x10008, 8, 1, fun _ => [Reg.HI_ACCESS_ERR.COUNT]⟩,
  ⟨0x10010, 8, 1, fun _ => [Reg.BAR4_WIN.BASE]⟩,
  ⟨0x10018, 8, 1, fun _ => [Reg.EVQ_BASE.ADDR]⟩,
  ⟨0x10020, 8, 1, fun _ => [Reg.EVQ_CTRL.EN, Reg.EVQ_CTRL.SIZE_LOG2, Reg.EVQ_CTRL.ALARM_RESV]⟩,
  ⟨0x10028, 8, 1, fun _ => [Reg.EVQ_HEAD.HEAD]⟩,
  ⟨0x10030, 8, 1, fun _ => [Reg.EVQ_TAIL.TAIL]⟩,
  ⟨0x10038, 8, 1, fun _ => [Reg.EVQ_OVERFLOW.LOST]⟩,
  ⟨0xC00000, 16, 6, fun k => [Reg.ETH_PORT.STATE k, Reg.ETH_PORT.GRANT k, Reg.ETH_PORT.PFC_MASK k, Reg.ETH_PORT.ROCE_PRIO k, Reg.ETH_PORT.QPS k]⟩,
  ⟨0xC00008, 16, 6, fun k => [Reg.ETH_MAC.ADDR k]⟩,
  ⟨0xC00100, 8, 6, fun k => [Reg.ETH_COUNT.RETRANS k, Reg.ETH_COUNT.NAKS k]⟩,
  ⟨0x30000, 8, 1, fun _ => [Reg.MB_STATUS.IN_BUSY, Reg.MB_STATUS.OUT_VALID, Reg.MB_STATUS.REJECT, Reg.MB_STATUS.FW_READY, Reg.MB_STATUS.FW_RESTARTED, Reg.MB_STATUS.INFLIGHT]⟩,
  ⟨0x30008, 8, 1, fun _ => [Reg.MB_DOORBELL.IN, Reg.MB_DOORBELL.ACK]⟩,
  ⟨0x30010, 8, 1, fun _ => [Reg.MB_FW_VERSION.PATCH, Reg.MB_FW_VERSION.MINOR, Reg.MB_FW_VERSION.MAJOR, Reg.MB_FW_VERSION.SVN, Reg.MB_FW_VERSION.SLOT, Reg.MB_FW_VERSION.FALLBACK]⟩]

/-- The registers of BAR0 and of the scoreboard pages, part 5. -/
def regRows5 : List RegRow := [
  ⟨0x30018, 8, 1, fun _ => [Reg.MB_COUNT.REQUESTS, Reg.MB_COUNT.RESPONSES]⟩,
  ⟨0x1400000, 16, 16, fun k => [Reg.REF_WIN_BASE.BASE k]⟩,
  ⟨0x1400008, 16, 16, fun k => [Reg.REF_WIN_CTRL.RD k, Reg.REF_WIN_CTRL.WR k, Reg.REF_WIN_CTRL.PAGES k]⟩,
  ⟨0x1400100, 8, 1, fun _ => [Reg.REF_EVQ_BASE.BASE]⟩,
  ⟨0x1400108, 8, 1, fun _ => [Reg.REF_EVQ_CTRL.PAGES]⟩,
  ⟨0x1400110, 8, 1, fun _ => [Reg.REF_GRANT.LINK, Reg.REF_GRANT.ETH]⟩,
  ⟨0x1400118, 8, 1, fun _ => [Reg.REF_CLAMP.P_MAX_W, Reg.REF_CLAMP.P_FLOORED, Reg.REF_CLAMP.T_MAX_C, Reg.REF_CLAMP.PWR_ACTIVE, Reg.REF_CLAMP.HOLD_ACTIVE]⟩,
  ⟨0x1400120, 8, 1, fun _ => [Reg.REF_WDOG.KICK, Reg.REF_WDOG.PERIOD_MS, Reg.REF_WDOG.STATE, Reg.REF_WDOG.EXPIRIES]⟩,
  ⟨0x1400128, 8, 1, fun _ => [Reg.REF_RATE.CAPT_MBPS, Reg.REF_RATE.ETH_SHARE, Reg.REF_RATE.LINK_SHARE, Reg.REF_RATE.ALARM_PER_S]⟩,
  ⟨0x1400130, 8, 1, fun _ => [Reg.REF_STATUS.DENY_SEEN, Reg.REF_STATUS.WDOG_SEEN, Reg.REF_STATUS.CLAMP_SEEN, Reg.REF_STATUS.HOLD_SEEN, Reg.REF_STATUS.LAST_DENY_SRC]⟩,
  ⟨0x1400138, 8, 1, fun _ => [Reg.REF_COUNT.DENIED, Reg.REF_COUNT.THROTTLE_US]⟩,
  ⟨0x1400140, 8, 1, fun _ => [Reg.REF_DENY_ADDR.ADDR]⟩,
  ⟨0x1200000, 8, 1, fun _ => [Reg.FLT_STATUS.CAUSE, Reg.FLT_STATUS.TEST_LOCKED, Reg.FLT_STATUS.D_TYPE, Reg.FLT_STATUS.RESETS]⟩,
  ⟨0x1200008, 8, 1, fun _ => [Reg.FLT_WHISTLE_TIME.TIME]⟩,
  ⟨0x1200010, 8, 1, fun _ => [Reg.FLT_CTRL.WINDOW_US, Reg.FLT_CTRL.TRACE_SUBSYS]⟩,
  ⟨0x1200018, 8, 1, fun _ => [Reg.FLT_TRC_BASE.ADDR]⟩,
  ⟨0x1200020, 8, 1, fun _ => [Reg.FLT_TRC_CTRL.EN, Reg.FLT_TRC_CTRL.SIZE_LOG2]⟩,
  ⟨0x1200028, 8, 1, fun _ => [Reg.FLT_TRC_HEAD.HEAD]⟩,
  ⟨0x1200030, 8, 1, fun _ => [Reg.FLT_TRC_TAIL.TAIL]⟩,
  ⟨0x1200038, 8, 1, fun _ => [Reg.FLT_TRC_OVERWRITTEN.COUNT]⟩]

/-- The registers of BAR0 and of the scoreboard pages, part 6. -/
def regRows6 : List RegRow := [
  ⟨0x1200040, 8, 1, fun _ => [Reg.FLT_TRC_SKIPPED.COUNT]⟩,
  ⟨0x1200048, 8, 1, fun _ => [Reg.FLT_CLASS_C.COUNT]⟩,
  ⟨0x1200050, 8, 1, fun _ => [Reg.FLT_CLASS_P.COUNT]⟩,
  ⟨0x1200058, 8, 1, fun _ => [Reg.FLT_CLASS_Q.COUNT]⟩,
  ⟨0x1200060, 8, 1, fun _ => [Reg.FLT_CLASS_D.COUNT]⟩,
  ⟨0x1200068, 8, 1, fun _ => [Reg.FLT_ALARM.COUNT]⟩,
  ⟨0x1200070, 8, 1, fun _ => [Reg.FLT_ALARM_Q.RING_WAIT, Reg.FLT_ALARM_Q.HALL_WAIT]⟩,
  ⟨0x1210000, 8, 4096, fun k => [Reg.FLT_WHISTLE_DONE.SEQ k]⟩,
  ⟨0x1000000, 8, 1, fun _ => [Reg.PWR_CTRL.CAP_W, Reg.PWR_CTRL.BOOST_EN, Reg.PWR_CTRL.WARN_C, Reg.PWR_CTRL.BOOST_T_C]⟩,
  ⟨0x1000008, 8, 1, fun _ => [Reg.PWR_STATUS.CAP_FLOORED, Reg.PWR_STATUS.CAPPING, Reg.PWR_STATUS.NBR_SEEN, Reg.PWR_STATUS.WARN_SEEN, Reg.PWR_STATUS.HBM_HOT_SEEN, Reg.PWR_STATUS.DITHER, Reg.PWR_STATUS.DRAW_W, Reg.PWR_STATUS.CLK_MHZ]⟩,
  ⟨0x1000010, 8, 1, fun _ => [Reg.PWR_COUNT.DITHER_MS, Reg.PWR_COUNT.NBR_HOLDS]⟩,
  ⟨0x1000018, 8, 1, fun _ => [Reg.PWR_GATE.ISLAND, Reg.PWR_GATE.ALL_DIE, Reg.PWR_GATE.UP, Reg.PWR_GATE.GO]⟩,
  ⟨0x1000020, 8, 1, fun _ => [Reg.PWR_GATE_STATUS.BUSY, Reg.PWR_GATE_STATUS.REFUSED]⟩,
  ⟨0x1000100, 8, 12, fun k => [Reg.MEM_HBM_TEMP.TEMP_C k, Reg.MEM_HBM_TEMP.HOT k]⟩,
  ⟨0x1001000, 8, 1024, fun k => [Reg.ISL_STATE.FREQ_MHZ k, Reg.ISL_STATE.STATE k, Reg.ISL_STATE.HOLD k, Reg.ISL_STATE.VOLT_MV k, Reg.ISL_STATE.TEMP_C k, Reg.ISL_STATE.TRIM k]⟩,
  ⟨0x300, 8, 1, fun _ => [Reg.BOOT_STATUS.STAGE, Reg.BOOT_STATUS.FAIL, Reg.BOOT_STATUS.STAGE_MS]⟩,
  ⟨0x308, 8, 1, fun _ => [Reg.STRAP_STATUS.ADDR, Reg.STRAP_STATUS.REFCLK_SEL]⟩]

/-- The registers of BAR0 and of the scoreboard pages. -/
def regRows : List RegRow := regRows0 ++ regRows1 ++ regRows2 ++ regRows3 ++ regRows4 ++ regRows5 ++ regRows6

/-- The registers of one tile, part 0. -/
def tileRegRows0 : List RegRow := [
  ⟨0x0, 8, 1, fun _ => [TReg.TILE_IDENT.LOGICAL, TReg.TILE_IDENT.PHYSICAL, TReg.TILE_IDENT.ISLAND]⟩,
  ⟨0x8, 8, 1, fun _ => [TReg.TILE_DUTY.DUTY, TReg.TILE_DUTY.STATE, TReg.TILE_DUTY.CTX]⟩,
  ⟨0x10, 8, 1, fun _ => [TReg.TILE_COUNT.RESIDUE_REPLAY, TReg.TILE_COUNT.ZERO_SKIP]⟩,
  ⟨0x18, 8, 1, fun _ => [TReg.TILE_STEAL.UNITS_IN, TReg.TILE_STEAL.UNITS_OUT]⟩,
  ⟨0x40, 8, 1, fun _ => [TReg.CONV_CFG.OUTL_LOG2, TReg.CONV_CFG.CUSTOM_SEL0, TReg.CONV_CFG.CUSTOM_SEL1, TReg.CONV_CFG.CUSTOM_SEL2, TReg.CONV_CFG.STATS_EN]⟩,
  ⟨0x48, 8, 1, fun _ => [TReg.CONV_STATUS.BUSY, TReg.CONV_STATUS.REC_DEPTH, TReg.CONV_STATUS.TAG_FAULT]⟩,
  ⟨0x50, 8, 1, fun _ => [TReg.CONV_COUNT0.BLOCKS_ENC, TReg.CONV_COUNT0.BLOCKS_DEC]⟩,
  ⟨0x58, 8, 1, fun _ => [TReg.CONV_COUNT1.OUTLIERS, TReg.CONV_COUNT1.NAN_BLOCKS]⟩,
  ⟨0x60, 8, 1, fun _ => [TReg.CONV_COUNT2.RECORDS, TReg.CONV_COUNT2.REC_STALL]⟩,
  ⟨0x80, 8, 1, fun _ => [TReg.TMA_CFG.WIDTH, TReg.TMA_CFG.HOLE_STRIDE, TReg.TMA_CFG.ITER]⟩,
  ⟨0x88, 8, 1, fun _ => [TReg.TMA_GEN.ACTIVE, TReg.TMA_GEN.FLIPS]⟩,
  ⟨0x90, 8, 1, fun _ => [TReg.TMA_PF_SEL0.SEL0, TReg.TMA_PF_SEL0.SEL1, TReg.TMA_PF_SEL0.SEL2, TReg.TMA_PF_SEL0.SEL3]⟩,
  ⟨0x98, 8, 1, fun _ => [TReg.TMA_PF_SEL1.SEL4, TReg.TMA_PF_SEL1.SEL5, TReg.TMA_PF_SEL1.SEL6, TReg.TMA_PF_SEL1.SEL7]⟩,
  ⟨0xA0, 8, 16, fun k => [TReg.TMA_PF.VALUE k, TReg.TMA_PF.MASK k, TReg.TMA_PF.OFF k]⟩,
  ⟨0x120, 8, 1, fun _ => [TReg.TMA_STATUS.EDIT_DROP, TReg.TMA_STATUS.ECC_CORR, TReg.TMA_STATUS.ECC_UNCORR, TReg.TMA_STATUS.EDIT_BUSY, TReg.TMA_STATUS.LIVE, TReg.TMA_STATUS.STAGED]⟩,
  ⟨0x128, 8, 1, fun _ => [TReg.TMA_COUNT0.SEARCHES, TReg.TMA_COUNT0.HITS]⟩,
  ⟨0x130, 8, 1, fun _ => [TReg.TMA_COUNT1.TIES, TReg.TMA_COUNT1.EDITS]⟩,
  ⟨0x140, 8, 8, fun k => [TReg.TMA_IKEY.KEY k]⟩,
  ⟨0x180, 8, 1, fun _ => [TReg.TMA_ICURSOR.CURSOR]⟩,
  ⟨0x188, 8, 1, fun _ => [TReg.TMA_IRESULT.RESULT, TReg.TMA_IRESULT.BUSY]⟩]

/-- The registers of one tile, part 1. -/
def tileRegRows1 : List RegRow := [
  ⟨0x200, 8, 1, fun _ => [TReg.SCORE_TILE.ROLE, TReg.SCORE_TILE.TREES, TReg.SCORE_TILE.REPLICA, TReg.SCORE_TILE.SEGMENT, TReg.SCORE_TILE.FIRST_TREE, TReg.SCORE_TILE.GROUP_POS]⟩,
  ⟨0x208, 8, 1, fun _ => [TReg.SCORE_TILE_COUNT.RECORDS, TReg.SCORE_TILE_COUNT.MISSES]⟩,
  ⟨0x280, 8, 1, fun _ => [TReg.PAT_TILE.AUTOMATA, TReg.PAT_TILE.LANES_BUSY, TReg.PAT_TILE.GROUP_POS]⟩,
  ⟨0x288, 8, 1, fun _ => [TReg.PAT_TILE_COUNT.SEARCHES, TReg.PAT_TILE_COUNT.MISSES]⟩]

/-- The registers of one tile. -/
def tileRegRows : List RegRow := tileRegRows0 ++ tileRegRows1

/-- A row of registers holds the register at an offset. -/
def RegRow.covers (r : RegRow) (off : Nat) : Bool :=
  decide (r.base ≤ off) && (off - r.base) % r.stride = 0 && decide ((off - r.base) / r.stride < r.count)

/-- The fields of the register at an offset among some rows; none where no register stands (R28). -/
def fieldsAt (rows : List RegRow) (off : Nat) : List Fld :=
  match rows.find? (fun r => r.covers off) with
  | some r => r.flds ((off - r.base) / r.stride)
  | none => []

end Sys2Proof.Machine
end

