-- ==== Sys2Proof/Machine/State.lean ====
section
/-! DEFINITION. The state of the block as plain data: every register, buffer, queue, memory and pin that the spec gives it. -/

namespace Sys2Proof.Machine

/-- No command of this block stops it: an event that cannot happen in the state at hand changes nothing (log entry 1).
The type has one reason, raised by no meaning; safe. -/
inductive Fault
  /-- raised by no meaning -/
  | never
  deriving DecidableEq, Repr

/-- The reasons for which a command has no answer. -/
inductive Refusal
  /-- raised by the dispatch for a command without a meaning; safe -/
  | notModelled (mnemonic : String)
  deriving DecidableEq, Repr

/-- A place in host memory or in device memory (R300, R314). -/
structure Loc where
  host : Bool
  addr : Nat
  deriving DecidableEq, Repr

/-- A numeric operand: a value in the slot, or one read at dispatch (R308, R316). -/
inductive Scalar
  | imm (v : Nat)
  | ind (bits : Nat) (loc : Loc)
  deriving DecidableEq, Repr

/-- A region named inside a tensor extension: SLOTTED, SEL NEXT and SLOT_STRIDE as in its REF slot (R308). -/
structure Place where
  loc : Loc
  write : Bool
  slotted : Bool
  next : Bool
  stride : Nat
  deriving DecidableEq, Repr

/-- What a policy-managed operand carries beside its region (R151, R309). -/
structure Managed where
  dec : Place
  tags : Place
  pool : Place
  poolCap : Nat
  deriving DecidableEq, Repr

/-- The tensor extension of an operand (R309); `custom` holds the slots that STATS = 1 calls for. -/
structure Tensor where
  fmt : Nat
  id : Nat
  layer : Nat
  pass : Nat
  role : Nat
  stats : Bool
  sr : Bool
  lead : Bool
  budget : Nat
  dflt : Nat
  elements : Nat
  inner : Nat
  managed : Option Managed
  custom : List Scalar
  deriving DecidableEq, Repr

/-- A relocated REF operand (R308, R315). -/
structure Ref where
  loc : Loc
  write : Bool
  slotted : Bool
  /-- SEL: false CUR, true NEXT (R290) -/
  next : Bool
  stride : Nat
  tensor : Option Tensor
  deriving DecidableEq, Repr

/-- An operand of an op, relocated. -/
inductive Opnd
  | null
  | num (s : Scalar)
  | ref (r : Ref)
  deriving DecidableEq, Repr

/-- Where an op stands on its way (R319 to R322). -/
inductive OpSt
  | waiting | staged | running | executed | done
  deriving DecidableEq, Repr

/-- A work unit in its queue: taken by a thief or not, and the place at which a stolen result arrived (R72 to R75). -/
structure UnitSt where
  u : WorkUnit
  thief : Option Nat
  /-- own units of the owner done before this result arrived, and its arrival number -/
  arrived : Option (Nat × Nat)
  deriving DecidableEq, Repr

/-- One transfer of a stream (R337): source, destination, bytes, chunk. -/
structure Xfer where
  src : Loc
  dst : Loc
  len : Nat
  chunk : Nat
  deriving DecidableEq, Repr

/-- The fetch of an op's read operands (R337 to R339): transfers not issued, those outstanding, the next index. -/
structure Flow where
  todo : List Xfer
  out : List (Nat × Xfer)
  next : Nat
  deriving DecidableEq, Repr

/-- A MOVE in progress: transfers not issued, transfers outstanding, and the chunk bookkeeping of R343. -/
structure MoveWork where
  todo : List Xfer
  out : List (Nat × Xfer)
  nextIdx : Nat
  /-- chunks for which a place has been taken -/
  taken : Nat
  chunks : Nat
  deriving DecidableEq, Repr

/-- A CURATE in progress (R348): next flag entry, entries consumed, records kept, bytes packed, first SEQ. -/
structure CurWork where
  j0 : Nat
  i : Nat
  n : Nat
  off : Nat
  first : Option Nat
  lastSeq : Nat
  stopped : Bool
  deriving DecidableEq, Repr

/-- A scored record waiting for delivery (R236): its sequence number, the replica, outputs, flags, anomaly count, lists. -/
structure ScoreRes where
  num : Nat
  replica : Nat
  y : List Nat
  tie : Bool
  miss : Bool
  multi : Bool
  trunc : Bool
  anomalies : Nat
  lists : List (List Nat)
  deriving DecidableEq, Repr

/-- A pattern lane (R262). -/
inductive LaneSt
  | free | scan | flush
  deriving DecidableEq, Repr

/-- A report of a record in progress (R264): offset, automaton ID, action row word. -/
structure Report where
  e : Nat
  aut : Nat
  row : Nat
  deriving DecidableEq, Repr

/-- A lane: its record, one state per automaton, offset, and the outputs gathered so far. -/
structure Lane where
  st : LaneSt
  num : Nat
  /-- data bytes; 0 for a record processed as empty -/
  bytes : Nat
  offset : Nat
  states : List Nat
  reports : List Report
  total : Nat
  marks : List (Nat × Nat)
  keep : Bool
  bad : Bool
  deriving DecidableEq, Repr

/-- A PATTERN stream in progress. -/
structure PatWork where
  s0 : Nat
  next : Nat
  flushed : Nat
  reps : Nat
  lanes : List Lane
  /-- when a stall on an output ring began -/
  stall : Option Nat
  sumTail : Nat
  outTail : Nat
  repTail : Nat
  deriving DecidableEq, Repr

/-- A message of a collective as it arrives: shard, sender's rank, the flits marked so far by OFFSET, the OFFSET of the last
one, and the time of completion. -/
structure CollMsg where
  shard : Nat
  rank : Nat
  flits : List (Nat × List Nat)
  last : Option Nat
  done : Option Nat
  deriving DecidableEq, Repr

/-- A collective in progress (R422 to R430). Messages this rank sends are named by (shard, receiving rank). -/
structure CollWork where
  tag : Nat
  /-- the rank table -/
  ranks : List Nat
  /-- this rank's encoded contribution to each shard -/
  own : List (List Nat)
  /-- ranks whose READY has arrived -/
  ready : List Nat
  msgs : List CollMsg
  sent : List (Nat × Nat)
  acked : List (Nat × Nat)
  /-- this rank's shard has been judged -/
  judged : Bool
  /-- the bytes that this rank distributes -/
  result : Option (List Nat)
  /-- shards written to DST -/
  got : List Nat
  /-- what the engine chose at op start under DET = 0: 0 each contribution whole and alone, 1 a tree, 2 fusion (R430) -/
  chosen : Nat
  deriving DecidableEq, Repr

/-- A contribution that was not on time and has not arrived (R385): tag, tensor, origin step, STALE of its op, shard, rank, dropped on arrival,
and what has arrived of it. -/
structure LateWait where
  tag : Nat
  tensor : Nat
  step : Nat
  stale : Nat
  drop : Bool
  msg : CollMsg
  /-- the sender's entry in the rank table, and whether the op ran over Ethernet -/
  entry : Nat
  eth : Bool
  deriving DecidableEq, Repr

/-- What an op in progress holds, by its kind. -/
inductive Work
  | none
  /-- MATMUL units; the positions that have asked for units, and those that have stopped stealing (R74) -/
  | units (us : List UnitSt) (idle stopped : List Nat)
  | move (w : MoveWork)
  | curate (w : CurWork)
  | pattern (w : PatWork)
  | load (left : List Nat)
  | edit (left : Nat) (flipRec : Option Nat) (bad : Option (Nat × Nat))
  | coll (w : CollWork)
  /-- a snapshot: slot, STATUS STEP, regions as place, bytes and remote offset, whether it stops under R393 -/
  | snap (slot step : Nat) (regions : List (Loc × Nat × Nat)) (aborting : Bool)
  | sem (since : Nat)
  | pending (n : Nat)
  deriving DecidableEq, Repr

/-- An op of an accepted buffer. -/
structure Op where
  id : Nat
  cls : Nat
  code : Nat
  preds : List Nat
  fence : Bool
  noSteal : Bool
  accInit : Nat
  opnds : List Opnd
  st : OpSt
  /-- GLOBAL_MODE.DET and SC_STEP.COUNT as sampled at dispatch (R320, R367) -/
  det : Bool
  step : Nat
  slot : Nat
  /-- when the timeout clock started, the time since then in which a hold stopped it (R327), and LIMIT_MS -/
  t0 : Nat
  paused : Nat
  limit : Nat
  work : Work
  /-- the fetch of its read operands, and bytes that it brought before every predecessor had completed (R339) -/
  fetch : Flow
  early : List (Loc × List Nat)
  /-- CONV_CFG of the op's tiles as sampled when it started: (tile, register) (R144) -/
  conv : List (Nat × Nat)
  /-- completion record: DISPATCH's spilled and dropped, TMA_EDIT's flip record (R87, R200) -/
  result : List Nat
  deriving DecidableEq, Repr

/-- An accepted buffer, in acceptance order. -/
structure Buf where
  ctx : Nat
  seq : Nat
  order : Bool
  wait : Bool
  waitCtx : Nat
  waitSeq : Nat
  waitMet : Bool
  ops : List Op
  deriving DecidableEq, Repr

/-- An accepted descriptor whose buffer is not yet checked (R300). -/
structure Desc where
  ctx : Nat
  seq : Nat
  order : Bool
  wait : Bool
  waitCtx : Nat
  waitSeq : Nat
  loc : Loc
  len : Nat
  deriving DecidableEq, Repr

/-- Context states of R296. -/
inductive CtxSt
  | free | active | error | dugout
  deriving DecidableEq, Repr

def CtxSt.code : CtxSt → Nat
  | .free => 0
  | .active => 1
  | .error => 2
  | .dugout => 3

/-- An execution context (R294, R295). -/
structure Ctx where
  st : CtxSt
  rt : Bool
  rank : Nat
  share : Nat
  streams : Nat
  outstanding : Nat
  limitMs : Nat
  lastErr : Nat
  /-- SEQ of the newest accepted buffer, if any (R302) -/
  lastSeq : Option Nat
  /-- LIMIT_MS in force when the running discard order was sent, and its time (R470) -/
  discard : Option (Nat × Nat)
  discarded : Nat
  /-- the DESTROY_CONTEXT op that waits for this context's dugout (R329) -/
  destroyer : Option OpKey
  deriving DecidableEq, Repr

/-- A relocation entry (R314). -/
structure Reloc where
  ctx : Nat
  handle : Nat
  host : Bool
  base : Nat
  len : Nat
  perm : Nat
  deriving DecidableEq, Repr

/-- States of a stream context that is not FREE (R336). -/
inductive HoldSt
  | held | dugout
  deriving DecidableEq, Repr

/-- Who holds a stream context (R334). -/
inductive Holder
  | op (k : OpKey)
  | pair (seq pair : Nat)
  | qp (port qpn : Nat)
  deriving DecidableEq, Repr

/-- A stream context that is not FREE: context, unit (compute die 0 to 15, hub 16 to 18), holder, state. -/
structure Hold where
  ctx : Nat
  unit : Nat
  holder : Holder
  st : HoldSt
  deriving DecidableEq, Repr

/-- A taker in a semaphore's queue (R345). -/
structure Waiter where
  key : OpKey
  sem : Nat
  count : Nat
  since : Nat
  deriving DecidableEq, Repr

/-- A semaphore pair of one buffer (R344). -/
structure Pair where
  ctx : Nat
  seq : Nat
  pair : Nat
  depth : Nat
  full : Nat
  empty : Nat
  waiters : List Waiter
  deriving DecidableEq, Repr

/-- A barrier tree in use: the huddle's op, its die, keyed or not (R354). -/
structure Tree where
  key : OpKey
  die : Nat
  keyed : Bool
  huddle : Nat
  deriving DecidableEq, Repr

/-- A SCORE stream: the ops that name one IN ring (R233). -/
structure Stream where
  ctx : Nat
  seq : Nat
  ring : Loc
  keys : List OpKey
  s0 : Nat
  /-- per replica, the next record to score -/
  done : List Nat
  results : List ScoreRes
  delivered : Nat
  tail : Nat
  /-- when a stall on the result ring began -/
  stall : Option Nat
  deriving DecidableEq, Repr

/-- The last release of a HUDDLE on a group in a buffer, and the first dispatch there (R358). -/
structure HuddleMark where
  ctx : Nat
  seq : Nat
  group : Nat
  released : Nat
  held : Nat
  deriving DecidableEq, Repr

/-- Tile states of R61. -/
inductive TileSt
  | idle | config | ready | busy | quiet
  deriving DecidableEq, Repr

def TileSt.code : TileSt → Nat
  | .idle => 0
  | .config => 1
  | .ready => 2
  | .busy => 3
  | .quiet => 4

/-- Replay-controller states of R121. -/
inductive ReplaySt
  | check | rp1 | rp2 | rp3 | rp4 | halted
  deriving DecidableEq, Repr

/-- A TMA slot (R182, R183). -/
structure TmaSlot where
  key : Nat
  mask : Nat
  leaf : Nat
  gen : Nat
  valid : Bool
  len : Nat
  deriving DecidableEq, Repr

/-- An edit item queued on a bank (R196): its op, index in the list, the record it waits for, its words. -/
structure EditItem where
  key : OpKey
  idx : Nat
  gate : Option Nat
  op : Nat
  slot : Nat
  w1 : Nat
  keyBits : Nat
  maskBits : Nat
  deriving DecidableEq, Repr

/-- What scoring wrote for a record that is also a calibration sample (R171). -/
structure Scored where
  requested : Nat
  fbScore : Nat
  gen : Nat
  o : List Nat
  deriving DecidableEq, Repr

/-- A statistics record (R140) with the place its result goes to. -/
structure StatRec where
  key : OpKey
  tensor : Nat
  patch : Nat
  step : Nat
  tile : Nat
  elements : Nat
  feats : List Nat
  dec : Nat
  patches : Nat
  budget : Nat
  deriving DecidableEq, Repr

/-- A calibration sample (R167 to R170); a missed one has no staging slot. -/
structure Sample where
  slot : Option Nat
  tensor : Nat
  patch : Nat
  step : Nat
  elements : Nat
  inner : Nat
  det : Bool
  feats : List Nat
  /-- the context whose op encoded it, and whether that encode emitted a record -/
  ctx : Nat
  hasRec : Bool
  scored : Option Scored
  /-- under DET, the bytes that wait for a staging slot (R168) -/
  wait : Option (List Nat)
  deriving DecidableEq, Repr

/-- A tile (R50 to R62). -/
structure Tile where
  duty : Nat
  st : TileSt
  ctx : Nat
  running : Option OpKey
  deck : Option OpKey
  regs : List (Nat × Nat)
  sram : Memory
  tma : List (Nat × TmaSlot)
  /-- SRAM and TMA contents are unspecified until the next completed configuration (R60, R61) -/
  unspec : Bool
  /-- the TMA was configured before: its VALID bits are unspecified too; a reset leaves every entry EMPTY (R61, R198, R541) -/
  lost : Bool
  /-- the image that configured the tile, and its place in the group -/
  cfg : Option Nat
  pos : Nat
  /-- the staged policy image (R166) -/
  staged : Option Nat
  /-- the load in progress: configuration and duty -/
  loading : Option (Nat × Nat × OpKey)
  edits : List EditItem
  replay : ReplaySt
  /-- records formed and not yet in the buffer, and the record buffer of R143 -/
  emit : List StatRec
  recs : List StatRec
  samples : List Sample
  /-- distinct SRAM words found uncorrectable since boot (R65, R285), and those of them still in error (R286) -/
  ueWords : List Nat
  badWords : List Nat
  /-- generation of the two map and action copies of a pattern bank (R255) -/
  copy0 : Option Nat
  copy1 : Option Nat
  inUse : Nat
  deriving DecidableEq, Repr

/-- An event record before it is laid out (R447, R496). -/
structure Event where
  typ : Nat
  cls : Nat
  sev : Nat
  subsys : Nat
  src : Nat
  hasCtx : Bool
  ctx : Nat
  time : Nat
  coal : Nat
  fold : Nat
  payload : List Nat
  deriving DecidableEq, Repr

/-- An open coalescing window (R509). -/
structure Win where
  typ : Nat
  src : Nat
  hasCtx : Bool
  ctx : Nat
  pend : Option Event
  /-- when the window ends: fixed at its opening (R522) -/
  till : Nat
  deriving DecidableEq, Repr

/-- A queued alarm (R510). -/
structure Alarm where
  ev : Event
  ring : Bool
  hall : Bool
  /-- holds its TYPE's reserved place -/
  reserved : Bool
  deriving DecidableEq, Repr

/-- The 1 ms rate limiter of LOCK_VIOLATION and REF_DENY (R38, R480). -/
structure Rate where
  isOpen : Bool
  pend : Option Event
  /-- when an open window ends -/
  till : Nat
  deriving DecidableEq, Repr

/-- Events, alarms and traces (R507 to R512). -/
structure EvState where
  wins : List Win
  posted : List Event
  /-- records lost since the last overflow record: count, first and last time (R449) -/
  lost : Nat × Nat × Nat
  alarms : List Alarm
  lock : Rate
  deny : Rate
  /-- sampled at enable: base and SIZE_LOG2 of the event ring -/
  base : Nat
  sizeLog2 : Nat
  trcBase : Nat
  trcSizeLog2 : Nat
  /-- the last 2,048 trace records, newest first -/
  trace : List Event
  /-- the capture buffer frozen at a whistle -/
  capture : List Event
  /-- fault-log entries captured and not yet stored -/
  faultLog : List Event
  /-- faults of classes C, P, Q, D since the last store -/
  counts : List Nat
  /-- from when the hall path may send again under ALARM_PER_S (R487, R511) -/
  hallNext : Nat
  deriving DecidableEq, Repr

/-- A recorded failure (R517). -/
structure FailRec where
  kind : Nat
  typ : Nat
  id : Nat
  detail : Nat
  bootSeq : Nat
  time : Nat
  deriving DecidableEq, Repr

/-- The fitness map as data (R70). -/
structure FitMap where
  bootSeq : Nat
  unfit : Bool
  fencedDie : Option Nat
  fencedStack : Option Nat
  /-- bench tiles that serve: (die, row, bench 0 or 1, column) -/
  serves : List (Nat × Nat × Nat × Nat)
  /-- bench tiles recorded as failed: (die, row, bench) -/
  benchFailed : List (Nat × Nat × Nat)
  links : List Nat
  eths : List Nat
  deriving DecidableEq, Repr

/-- The black box in boot flash (R513 to R517); `hours0` is the model's own, the count of hours at power-up. -/
structure BlackBox where
  serial : List Nat
  hours : Nat
  hours0 : Nat
  counts : List Nat
  faultHead : Nat
  failures : Nat
  whistles : Nat
  bootSeq : Nat
  maps : List (Nat × FitMap)
  failList : List FailRec
  faultLog : List (Nat × Event)
  trace : List Event
  journal : List (Nat × List Nat)
  deriving DecidableEq, Repr

/-- A mailbox request that the Captain holds (R464, R465). -/
structure Req where
  opcode : Nat
  tag : Nat
  len : Nat
  payload : List Nat
  deriving DecidableEq, Repr

/-- The Captain: accepted requests, responses that wait for MB_OUT, firmware slots, fuses (R464 to R477, R486). -/
structure Captain where
  reqs : List Req
  resps : List (List Nat)
  mbIn : List Nat
  mbOut : List Nat
  slotA : Option FwHead
  slotB : Option FwHead
  prefer : Nat
  booted : Nat
  svnFused : Nat
  /-- key slots fused as revoked -/
  revoked : List Nat
  lastRestart : Option Nat
  /-- time of the last KICK or start (R486) -/
  kickAt : Nat
  deriving DecidableEq, Repr

/-- A queue pair that is not FREE (R453, R456, R471). -/
structure Qp where
  port : Nat
  qpn : Nat
  owner : Nat
  error : Bool
  dscp : Nat
  destQpn : Nat
  sqPsn : Nat
  rqPsn : Nat
  destGid : Nat
  vlan : Nat
  deriving DecidableEq, Repr

/-- The header fields of a flit apart from SEQ, ACK and CREDIT (R404). -/
structure Hdr where
  typ : Nat
  vc : Nat
  last : Bool
  dst : Nat
  src : Nat
  plane : Nat
  tag : Nat
  msg : Nat
  rank : Nat
  off : Nat
  len : Nat
  deriving DecidableEq, Repr

/-- A flit that waits at a port for a credit or for room (R405, R407), and the buffer that a transit flit holds meanwhile:
(port, virtual channel). -/
structure WaitFlit where
  hdr : Hdr
  payload : List Nat
  held : Option (Nat × Nat)
  deriving DecidableEq, Repr

/-- The flit state of a link port (R404, R405, R407, R408). -/
structure PortSt where
  expect : Nat
  fails : Nat
  /-- the expected SEQ has been requested again -/
  retried : Bool
  txSeq : Nat
  /-- flits sent and not acknowledged, oldest first: SEQ, header, payload -/
  unacked : List (Nat × Hdr × List Nat)
  /-- flits not sent yet, oldest first -/
  waiting : List WaitFlit
  /-- buffers of the far end that this port may fill, and its own freed ones that it has not returned, by virtual channel -/
  credits : List Nat
  owed : List Nat
  /-- times of the last flit sent and of the last that arrived -/
  lastTx : Nat
  lastRx : Nat
  /-- time of the last loss of an Ethernet port's link, newest first -/
  losses : List Nat
  /-- priorities that a priority flow control frame has paused (R451) -/
  paused : Nat
  deriving DecidableEq, Repr

/-- Membership and the commit root (R411 to R419). -/
structure Domain where
  members : List Nat
  ports : List (Nat × Nat)
  epoch : Nat
  /-- modules that have asked to join, with their port-up bits (R414) -/
  joiners : List (Nat × Nat)
  votes : List Vote
  voteTime : Nat
  firstEpoch : Nat
  membership : List Nat
  decided : Option (Nat × Verdict × Nat × Nat)
  /-- modules to which that decision went, and those admitted since it was an ABORT (log entry 83) -/
  answered : List Nat
  /-- a module of the step membership has left the map since the last decision (R378, R417) -/
  departed : Bool
  /-- when this module heard a MAP, or asked to join, and when the root heard each member (R411, R414) -/
  mapAt : Nat
  heard : List (Nat × Nat)
  /-- took office by election while the step counter held this step (R419) -/
  elected : Option Nat
  /-- READY messages of collectives that have not begun here: (tag, rank, DET of that rank) -/
  early : List (Nat × Nat × Bool)
  deriving DecidableEq, Repr

/-- A held late contribution (R385): tensor, origin step, STALE of its op, rank, shard, payload bytes, arrival time. -/
structure LateRec where
  tensor : Nat
  step : Nat
  stale : Nat
  rank : Nat
  shard : Nat
  bytes : List Nat
  time : Nat
  deriving DecidableEq, Repr

/-- A journal entry to be written: TYPE, flags, STEP, payload, and whether its writing completes a commit (R380 step 4). -/
structure JEntry where
  typ : Nat
  flags : Nat
  step : Nat
  payload : List Nat
  commits : Bool
  deriving DecidableEq, Repr

/-- A commit sequence of R380 in progress: by SC_RESOLVE, without steps 4 and 5 of R163, its entry queued. -/
structure Flip where
  resolved : Bool
  skip : Bool
  queued : Bool
  deriving DecidableEq, Repr

/-- The step controller beyond its registers (R375 to R397). -/
structure StepState where
  /-- the running STEP_COMMIT -/
  commit : Option OpKey
  scope : Nat
  deadline : Nat
  /-- when the running STEP_COMMIT sent its vote (R379) -/
  votedAt : Nat
  flip : Option Flip
  /-- COMMIT_SLOT has been switched and COUNT has not advanced (log entry 80) -/
  half : Bool
  jpend : List JEntry
  /-- the reserve ring, keyed by JSEQ mod 4,096 -/
  reserve : List (Nat × List Nat)
  jseq : Nat
  jBase : Nat
  jSizeLog2 : Nat
  /-- CAL_EN as sampled at the last boundary -/
  calOn : Bool
  detAll : Bool
  detAny : Bool
  straggled : Bool
  dropped : Nat
  lateAdded : Nat
  lates : List LateRec
  lateWait : List LateWait
  /-- tensors with a record scored since their last resolution: decision array address, patches, tensor -/
  touched : List (Nat × Nat × Nat)
  /-- (tensor, patch) sampled in the running step -/
  sampled : List (Nat × Nat)
  deriving DecidableEq, Repr

/-- Power and thermal state beyond the registers (R483 to R485, R523 to R545). -/
structure Power where
  /-- number of the next dither slot -/
  slot : Nat
  /-- samples of input power over the last 1 ms, newest first, in W -/
  samples : List Nat
  /-- the Referee's clamp is engaged, and samples since in which the mean stayed above P_MAX_W -/
  clamp : Bool
  clampOver : Nat
  /-- per island: ceiling steps taken off under WARN_C, and clock steps taken off for want of margin -/
  ceil : List (Nat × Nat)
  low : List (Nat × Nat)
  /-- islands that have entered WARN_C and have not left it -/
  warned : List Nat
  /-- islands short of margin at full trim -/
  short : List Nat
  /-- governor periods with H above 0, modulo 10 -/
  ditherP : Nat
  /-- pairs of islands that a crossing joins, as the last sample named them -/
  pairs : List (Nat × Nat)
  /-- neighbour holds: (held island, other island, voltage or temperature) -/
  nbr : List (Nat × Nat × Bool)
  /-- sensors that deviate: (island, sensor, samples), and those excluded -/
  suspect : List (Nat × Nat × Nat)
  excluded : List (Nat × Nat)
  /-- islands that a gate or ungate request moves -/
  gating : List Nat
  /-- the model's own count of the free values that margin trims have met -/
  trims : Nat
  deriving DecidableEq, Repr

/-- Input pins and straps (R553, R557). -/
structure Pins where
  pwrgd : Bool
  perstN : Bool
  railsUp : Bool
  /-- WHISTLE_N is driven low -/
  whistle : Bool
  tRelease : Nat
  deriving DecidableEq, Repr

/-- Something the block has sent to the outside. -/
inductive Sent
  | msix (vec : Nat)
  | completion (bytes : List Nat) (poisoned : Bool)
  | flit (port : Nat) (bytes : List Nat)
  | ctrl (code dst : Nat) (fields : List Nat)
  | data (tag shard rank dst : Nat) (bytes : List Nat)
  | ready (tag rank : Nat) (det : Bool) (dst : Nat)
  | nack (code tag addr : Nat)
  | retry (port seq : Nat)
  | ethNak (port qpn : Nat)
  | ethReply (port qpn : Nat) (bytes : List Nat)
  | rdmaWrite (port qpn rkey addr : Nat) (bytes : List Nat)
  | arpReply (port : Nat)
  | hall (bytes : List Nat) (waiting : Nat)
  | pldm (sensor value : Nat)
  deriving DecidableEq, Repr

/-- The front end beyond its registers. -/
structure FrontEnd where
  base : Nat
  sizeLog2 : Nat
  on : Bool
  desc : Option Desc
  bufs : List Buf
  relocs : List Reloc
  deriving DecidableEq, Repr

/-- The stream engine beyond its registers. -/
structure StreamEng where
  holds : List Hold
  pairs : List Pair
  trees : List Tree
  streams : List Stream
  marks : List HuddleMark
  /-- ops that a discard order took while they ran, until their context is quiet (R330, R340, R444) -/
  dropped : List (OpKey × Op)
  deriving DecidableEq, Repr

/-- The running tile-window access (R47). -/
structure TwAcc where
  tile : Nat
  space : Nat
  off : Nat
  words : Nat
  write : Bool
  /-- the tile's island was gated or on its way to or from it at GO (R48) -/
  dark : Bool
  /-- TW_DATA as it stood at GO -/
  data : List Nat
  deriving DecidableEq, Repr

/-- The whole block. -/
structure State where
  pending : List Instr
  /-- device time base in ns -/
  now : Nat
  /-- the model's own counter of free values met -/
  free : Nat
  /-- every register field that differs from its reset value, by key -/
  regs : List (Nat × Nat)
  /-- keys of the WO1 fields written since reset (R36) -/
  wo1 : List Nat
  hbm : Memory
  /-- base addresses of poisoned sectors (R282) -/
  poison : List Nat
  /-- DRAM rows with corrected sectors, and with uncorrectable ones, since boot: (stack, row, sector) (R284) -/
  ceRows : List (Nat × Nat × Nat)
  ueRows : List (Nat × Nat)
  hostMem : Memory
  tw : Option TwAcc
  tiles : List (Nat × Tile)
  configs : List (Nat × Image)
  nextCfg : Nat
  ctxs : List (Nat × Ctx)
  fe : FrontEnd
  se : StreamEng
  sc : StepState
  link : List (Nat × PortSt)
  eth : List (Nat × PortSt)
  dom : Domain
  qps : List Qp
  ev : EvState
  cap : Captain
  pwr : Power
  pins : Pins
  fit : Option FitMap
  bootSeq : Nat
  /-- failures recorded and not yet stored (R514) -/
  fails : List FailRec
  /-- failures that a full list did not store, held in the retention buffer (R514) -/
  failsKept : List FailRec
  box : BlackBox
  /-- a whistle is sounding: the islands stand still (R499) -/
  stopped : Bool
  /-- MSI-X table: per vector address, data, mask; pending bits (R446) -/
  msix : List (Nat × Nat)
  msixPend : Nat
  sent : List Sent
  deriving DecidableEq, Repr

def Ctx.reset (c : Nat) : Ctx :=
  if c = 0 then ⟨.active, false, 0, 256, 262144, 4096, 10000, 0, none, none, 0, none⟩
  else ⟨.free, false, 0, 0, 0, 1, 10000, 0, none, none, 0, none⟩

def Tile.reset : Tile :=
  { duty := 0, st := .idle, ctx := 0, running := none, deck := none, regs := [], sram := [], tma := [], unspec := true, lost := false,
    cfg := none, pos := 0, staged := none, loading := none, edits := [], replay := .check, emit := [], recs := [],
    samples := [], ueWords := [], badWords := [], copy0 := none, copy1 := none, inUse := 0 }

/-- Flit buffers per virtual channel of a port (R405). -/
def vcBuffers := 64
def PortSt.reset : PortSt := ⟨0, 0, false, 0, [], [], List.replicate 4 vcBuffers, [0, 0, 0, 0], 0, 0, [], 0⟩
def Domain.reset : Domain := ⟨[], [], 0, [], [], 0, 0, [], none, [], false, 0, [], none, []⟩
def FrontEnd.reset : FrontEnd := ⟨0, 10, false, none, [], []⟩
def StreamEng.reset : StreamEng := ⟨[], [], [], [], [], []⟩
def EvState.reset : EvState :=
  ⟨[], [], (0, 0, 0), [], ⟨false, none, 0⟩, ⟨false, none, 0⟩, 0, 10, 0, 16, [], [], [], [0, 0, 0, 0], 0⟩
def StepState.reset : StepState :=
  { commit := none, scope := 0, deadline := 0, votedAt := 0, flip := none, half := false, jpend := [], reserve := [], jseq := 0,
    jBase := 0, jSizeLog2 := 10, calOn := false, detAll := true, detAny := false, straggled := false, dropped := 0,
    lateAdded := 0, lates := [], lateWait := [], touched := [], sampled := [] }
def Power.reset : Power := ⟨0, [], false, 0, [], [], [], [], 0, [], [], [], [], [], 0⟩
/-- The firmware image of manufacture: DESIGN CHOICE, the spec gives none (log entry 7). -/
def FwHead.factory : FwHead := ⟨true, 1, 0, 0x030000, 0, 0, 1, true, true, true⟩
def Captain.reset : Captain :=
  { reqs := [], resps := [], mbIn := [], mbOut := [], slotA := some FwHead.factory, slotB := some FwHead.factory, prefer := 0,
    booted := 0, svnFused := 0, revoked := [], lastRestart := none, kickAt := 0 }
def BlackBox.reset : BlackBox := ⟨List.replicate 16 0, 0, 0, [0, 0, 0, 0], 0, 0, 0, 0, [], [], [], [], []⟩

/-- The block after a power-up: PWRGD high, the rails in regulation, PERST_N still low, STAGE STANDBY (R558, R562). -/
def State.reset : State :=
  { pending := [], now := 0, free := 0, regs := [], wo1 := [], hbm := [], poison := [], ceRows := [], ueRows := [],
    hostMem := [], tw := none, tiles := [], configs := [], nextCfg := 0, ctxs := [],
    fe := FrontEnd.reset, se := StreamEng.reset, sc := StepState.reset, link := [], eth := [], dom := Domain.reset,
    qps := [], ev := EvState.reset, cap := Captain.reset, pwr := Power.reset, pins := ⟨true, false, true, false, 0⟩,
    fit := none, bootSeq := 0, fails := [], failsKept := [], box := BlackBox.reset, stopped := false, msix := [], msixPend := 0, sent := [] }

end Sys2Proof.Machine
end

