-- ==== Sys2Proof/Machine/Ops.lean ====
section
/-! DEFINITION. The named operations over registers, memories, contexts, tiles and events that every command shares. -/

namespace Sys2Proof.Machine

/-- What a meaning answers. -/
abbrev Out := Host.Outcome State Fault Refusal

/-! ## Registers -/

/-- The value a field holds. -/
def State.rd (s : State) (f : Fld) : Nat := mapGet s.regs f.reset f.key

/-- A field given a value, cut to its width. -/
def State.wr (s : State) (f : Fld) (v : Nat) : State := { s with regs := mapSet s.regs f.key (v % 2 ^ f.w) }

/-- A counter raised by `n`: it saturates when its register says so, else wraps (R32). -/
def Fld.counted (f : Fld) (v n : Nat) : Nat := if f.sat then min (v + n) (2 ^ f.w - 1) else (v + n) % 2 ^ f.w

def State.inc (s : State) (f : Fld) (n : Nat) : State := s.wr f (f.counted (s.rd f) n)

def State.on (s : State) (f : Fld) : Bool := s.rd f != 0

def Tile.rd (t : Tile) (f : Fld) : Nat := mapGet t.regs f.reset f.key
def Tile.wr (t : Tile) (f : Fld) (v : Nat) : Tile := { t with regs := mapSet t.regs f.key (v % 2 ^ f.w) }
def Tile.inc (t : Tile) (f : Fld) (n : Nat) : Tile := t.wr f (f.counted (t.rd f) n)

/-! ## Contexts and tiles -/

def State.ctx (s : State) (c : Nat) : Ctx := (mapGet? s.ctxs c).getD (Ctx.reset c)
def State.setCtx (s : State) (c : Nat) (x : Ctx) : State := { s with ctxs := mapSet s.ctxs c x }
def State.modCtx (s : State) (c : Nat) (f : Ctx → Ctx) : State := s.setCtx c (f (s.ctx c))

def State.tile (s : State) (t : Nat) : Tile := mapGet s.tiles Tile.reset t
def State.setTile (s : State) (t : Nat) (x : Tile) : State := { s with tiles := mapSet s.tiles t x }
def State.modTile (s : State) (t : Nat) (f : Tile → Tile) : State := s.setTile t (f (s.tile t))

/-- A fresh free value (R4). -/
def State.takeFree (s : State) : State := { s with free := s.free + 1 }

def State.send (s : State) (m : Sent) : State := { s with sent := s.sent ++ [m] }

/-! ## Names of places (R8 to R12, R53 to R55) -/

def tileDie (t : Nat) : Nat := t / 8192
def tileRow (t : Nat) : Nat := t / 128 % 64
def tileCol (t : Nat) : Nat := t % 128
def tileId (die row col : Nat) : Nat := die * 8192 + row * 128 + col
def islandId (site isl : Nat) : Nat := site * 32 + isl

def feIsland : Nat := islandId 19 0
def hostIsland : Nat := islandId 19 1
def captainIsland : Nat := islandId 19 2
def refIsland : Nat := islandId 19 3
/-- The hub island that controls a stack (R12, R273). -/
def stackIsland (st : Nat) : Nat := islandId (16 + st / 4) (st % 4 / 2)
def linkIsland (port : Nat) : Nat := islandId (16 + port / 6) 2
def ethIsland (port : Nat) : Nat := islandId (16 + port / 2) 3

/-- An island ID that names an island (R9). -/
def islandExists (n : Nat) : Bool :=
  let site := n / 32
  let isl := n % 32
  decide (n < 1024) && ((decide (site < 16) && decide (isl < 20)) || (decide (16 ≤ site) && decide (site < 20) && decide (isl < 4)))

/-- The bench tile, 0 or 1, that serves a logical position, if any (R71). -/
def State.bench? (s : State) (t : Nat) : Option Nat :=
  match s.fit with
  | none => none
  | some m => (m.serves.find? fun e => e.1 = tileDie t && e.2.1 = tileRow t && e.2.2.2 = tileCol t).map fun e => e.2.2.1

/-- The physical tile that a tile ID reaches (R43, R54). -/
def State.physical (s : State) (t : Nat) : Nat :=
  match s.bench? t with
  | some b => tileId (tileDie t) (tileRow t) (80 + b)
  | none => t

/-- The logical position a physical tile serves: all ones for a bench tile that serves none (R54). -/
def State.logical (s : State) (p : Nat) : Nat :=
  if tileCol p < 80 then p
  else
    match s.fit with
    | none => 0x1FFFF
    | some m =>
      match m.serves.find? fun e => e.1 = tileDie p && e.2.1 = tileRow p && 80 + e.2.2.1 = tileCol p with
      | some e => tileId (tileDie p) (tileRow p) e.2.2.2
      | none => 0x1FFFF

/-- The island that clocks a tile (R10, R55). -/
def State.tileIsland (s : State) (t : Nat) : Nat :=
  let p := s.physical t
  islandId (tileDie p) (5 * (tileRow p / 16) + min (tileCol p / 16) 4)

/-- Island states of R543. -/
def Isl.RUN := 0
def Isl.HELD := 1
def Isl.DRAINING := 2
def Isl.GATED := 3
def Isl.UNGATING := 4
def State.islSt (s : State) (n : Nat) : Nat := s.rd (Reg.ISL_STATE.STATE n)
/-- A tile's island runs: its scrubbers work (R208, R286, R534, R540). -/
def State.tileRuns (s : State) (t : Nat) : Bool := s.islSt (s.tileIsland t) = Isl.RUN
/-- A hold has stopped the clock of the island that a tile lies on: nothing on the tile moves until it runs again (R534). -/
def State.heldTile (s : State) (t : Nat) : Bool := s.islSt (s.tileIsland t) = Isl.HELD

def State.dieFenced (s : State) (d : Nat) : Bool :=
  match s.fit with
  | some m => m.fencedDie = some d
  | none => false

/-! ## The bridge graph (R16, R20) -/

/-- Grid position of a compute die. -/
def dieX (d : Nat) : Nat := d % 4
def dieY (d : Nat) : Nat := d / 4

/-- The bridges, each between two sites: compute dies at grid neighbours, each hub and its four dies, each pair of hubs, and
the control die with each hub. -/
def bridges : List (Nat × Nat) :=
  ((List.range 16).filter fun d => decide (dieX d < 3)).map (fun d => (d, d + 1)) ++
  ((List.range 16).filter fun d => decide (dieY d < 3)).map (fun d => (d, d + 4)) ++
  [0, 1, 2, 3].map (16, ·) ++ [12, 13, 14, 15].map (17, ·) ++ [4, 7, 8, 11].map (18, ·) ++
  [(16, 17), (16, 18), (17, 18), (19, 16), (19, 17), (19, 18)]

/-- A compute die that is fenced; hubs and the control die are not fenced. -/
def State.siteFenced (s : State) (n : Nat) : Bool := decide (n < 16) && s.dieFenced n

/-- The bridges that the boot leaves enabled: those of a fenced die are disabled. -/
def State.enabledBridges (s : State) : List (Nat × Nat) := bridges.filter fun b => !s.siteFenced b.1 && !s.siteFenced b.2

def State.bridged (s : State) (a b : Nat) : Bool := s.enabledBridges.any fun e => e = (a, b) || e = (b, a)

/-- Sites that a set reaches over one more enabled bridge. -/
def State.spread (s : State) (ns : List Nat) : List Nat := (List.range 20).filter fun n => ns.contains n || ns.any (s.bridged n)

/-- The sites in order of their distance from hub 0: `n` rounds of a breadth-first walk, each site with its round. -/
def State.levels (s : State) : Nat → List Nat → List (Nat × Nat)
  | 0, _ => []
  | n + 1, seen =>
    let new := (s.spread seen).filter fun x => !seen.contains x
    new.map (fun x => (x, 20 - n)) ++ s.levels n (seen ++ new)

/-- The level of a site in the up*/down* order that the Captain lays over the enabled bridges at boot. The root, hub 0, is the
model's choice (DESIGN CHOICE, log entry 115). -/
def State.level (s : State) (n : Nat) : Option Nat := if n = 16 then some 0 else mapGet? (s.levels 19 [16]) n

/-- A bridge is crossed upwards from `a` to `b`: towards the root, and at one level towards the lower site. -/
def State.isUp (s : State) (a b : Nat) : Bool :=
  match s.level a, s.level b with
  | some x, some y => decide (y < x) || (x = y && decide (b < a))
  | _, _ => false

/-- Sites from which `dst` is reached by going down only, within `n` bridges. -/
def State.downTo (s : State) (dst : Nat) : Nat → Nat → Bool
  | 0, a => a = dst
  | n + 1, a => a = dst || (List.range 20).any fun b => s.bridged a b && !s.isUp a b && s.downTo dst n b

/-- The routing table that the boot leaves: the next site on the way from `a` to `b`, downwards where `b` lies below, else
upwards; none where no way is (R20). -/
def State.nextSite (s : State) (a b : Nat) : Option Nat :=
  if a = b then none
  else
    match (List.range 20).find? fun n => s.bridged a n && !s.isUp a n && s.downTo b 6 n with
    | some n => some n
    | none => (List.range 20).find? fun n => s.bridged a n && s.isUp a n

/-- The tiles of a group in group order (R63, R64). -/
def groupTiles (g : Nat) : List Nat :=
  (span (bitsOf g 4 6) (bitsOf g 10 6 + 1)).flatMap fun r =>
    (span (bitsOf g 16 7) (bitsOf g 23 7 + 1)).map fun c => tileId (bitsOf g 0 4) r c

/-- A group descriptor that lies on the grid of a die in service (R64). -/
def State.groupOk (s : State) (g : Nat) : Bool :=
  decide (bitsOf g 4 6 + bitsOf g 10 6 ≤ 63) && decide (bitsOf g 16 7 + bitsOf g 23 7 ≤ 79) && !s.dieFenced (bitsOf g 0 4)

/-- Event subsystem of a tile's duty (R58). -/
def dutySubsys (duty : Nat) : Nat := if duty = 2 then 2 else if duty = 3 then 3 else if duty = 4 then 4 else 0

/-! ## Event types (R495, R548) -/

def Ev.RESIDUE_REPLAY := 0x0000
def Ev.RESIDUE_FAIL := 0x0001
def Ev.WRONG_DUTY := 0x0002
def Ev.SPARSE_META := 0x0003
def Ev.DISPATCH_OVERFLOW := 0x0004
def Ev.INT4_CODE8 := 0x0005
def Ev.OUTLIER_META := 0x0006
def Ev.POS_RANGE := 0x0007
def Ev.TENSOR_IMAGE := 0x0008
def Ev.TAG_INVALID := 0x0100
def Ev.POOL_OVERFLOW := 0x0101
def Ev.POLICY_BUDGET := 0x0200
def Ev.POLICY_FLIP := 0x0201
def Ev.CAL_LOG_OVERFLOW := 0x0202
def Ev.NO_POLICY := 0x0203
def Ev.DEC_MISMATCH := 0x0204
def Ev.STAGE_GEN := 0x0205
def Ev.FILTAS_TIE := 0x0300
def Ev.FILTAS_MISS := 0x0301
def Ev.FILTAS_MULTI := 0x0302
def Ev.FILTAS_MISMATCH := 0x0303
def Ev.SCORE_IMAGE := 0x0304
def Ev.TMA_EDIT_DROP := 0x0305
def Ev.EDIT_BAD := 0x0306
def Ev.FLIP_LATE := 0x0307
def Ev.TMA_ECC_CORR := 0x0308
def Ev.TMA_ECC := 0x0309
def Ev.TMA_SELFTEST := 0x030A
def Ev.PATTERN_MISS := 0x0400
def Ev.PATTERN_MULTI := 0x0401
def Ev.PATTERN_TRUNC := 0x0402
def Ev.PATTERN_BAD_RECORD := 0x0403
def Ev.PATTERN_IMAGE := 0x0404
def Ev.NET_CE := 0x0500
def Ev.NET_REPLAY := 0x0501
def Ev.NET_FAIL := 0x0502
def Ev.MEM_CE := 0x0600
def Ev.SRAM_CE := 0x0601
def Ev.MEM_UE := 0x0602
def Ev.SRAM_UE := 0x0603
def Ev.MEM_RANGE := 0x0604
def Ev.STACK_FAIL := 0x0605
def Ev.PARSE_FAIL := 0x0700
def Ev.PRIV_FAIL := 0x0701
def Ev.DEP_LOST := 0x0702
def Ev.BAD_INDIRECT := 0x0703
def Ev.DESC_SKIPPED := 0x0704
def Ev.QUOTA_OVER := 0x0705
def Ev.SHARE_DENIED := 0x0706
def Ev.MAP_REFUSED := 0x0707
def Ev.CONTEXT_DESTROYED := 0x0708
def Ev.OP_TIMEOUT := 0x0709
def Ev.QUIET_TIMEOUT := 0x070A
def Ev.SCHEDULE_OVERRUN := 0x0800
def Ev.SEM_OVERFLOW := 0x0801
def Ev.STREAM_NACK := 0x0802
def Ev.COMMIT_ABORT := 0x0900
def Ev.COMMIT_IN_DOUBT := 0x0901
def Ev.SLOT_IN_DOUBT := 0x0902
def Ev.SNAP_BAD := 0x0903
def Ev.STRAGGLER_QUORUM := 0x0904
def Ev.STRAGGLER := 0x0905
def Ev.SNAPSHOT_ABORTED := 0x0906
def Ev.RESOLVE_STALE := 0x0907
def Ev.JOURNAL_REFUSED := 0x0908
def Ev.LINK_RETRY := 0x0A00
def Ev.LINK_DOWN := 0x0A01
def Ev.LINK_LOST := 0x0A02
def Ev.LINK_MISWIRED := 0x0A03
def Ev.MEMBER_JOINED := 0x0A04
def Ev.MEMBER_LOST := 0x0A05
def Ev.ROOT_CHANGED := 0x0A06
def Ev.COLL_BAD := 0x0A07
def Ev.COLL_PEER_LOST := 0x0A08
def Ev.ETH_ACCESS := 0x0B00
def Ev.ETH_LINK_LOST := 0x0B01
def Ev.ETH_LINK_DOWN := 0x0B02
def Ev.ETH_QP_ERROR := 0x0B03
def Ev.EVQ_OVERFLOW := 0x0C00
def Ev.FW_FALLBACK := 0x0D00
def Ev.LOCK_VIOLATION := 0x0E00
def Ev.REF_DENY := 0x0E01
def Ev.REF_CLAMP := 0x0E02
def Ev.REF_HOLD := 0x0E03
def Ev.CAPTAIN_WDOG := 0x0E04
def Ev.REF_WDOG_FAIL := 0x0E05
def Ev.REF_POWER := 0x0E06
def Ev.REF_THERMAL := 0x0E07
def Ev.PART_FAILED := 0x0F00
def Ev.HUB_FAIL := 0x0F01
def Ev.CAP_FLOORED := 0x0F10
def Ev.NBR_HOLD := 0x0F11
def Ev.THERM_WARN := 0x0F12
def Ev.HBM_HOT := 0x0F13
def Ev.HBM_THERMAL := 0x0F14
def Ev.ISLAND_GATED := 0x0F15
def Ev.ISLAND_UNGATED := 0x0F16
def Ev.ISLAND_OFF_OP := 0x0F17
def Ev.MARGIN_LOW := 0x0F18
def Ev.LANE_MARGIN_LOW := 0x0F19
def Ev.SENSOR_FAIL := 0x0F1A
def Ev.TP_OP_DISPATCH := 0xF000
def Ev.TP_OP_DONE := 0xF001
def Ev.TP_STEP_BOUNDARY := 0xF002

/-- The subsystem of an event (R13, R495): its TYPE's group, except that TMA and SRAM events and WRONG_DUTY follow the duty of
their tile, `duty` here, as SCORE_IMAGE does; INT4_CODE8 and OUTLIER_META are the converter's, and stragglers the link's. -/
def typSubsys (typ duty : Nat) : Nat :=
  if [Ev.WRONG_DUTY, Ev.TMA_EDIT_DROP, Ev.EDIT_BAD, Ev.FLIP_LATE, Ev.TMA_ECC_CORR, Ev.TMA_ECC, Ev.TMA_SELFTEST, Ev.SRAM_CE,
      Ev.SRAM_UE].contains typ then dutySubsys duty
  else if typ = Ev.SCORE_IMAGE then (if duty = 2 then 2 else 3)
  else if typ = Ev.INT4_CODE8 || typ = Ev.OUTLIER_META then 1
  else if typ = Ev.STRAGGLER || typ = Ev.STRAGGLER_QUORUM then 10
  else typ / 256 % 16

/-- Payload bytes: each field aligned to its size, in order (R496). -/
def payloadOf : List (Nat × Nat) → List Nat → List Nat
  | [], acc => acc
  | (n, v) :: rest, acc =>
    let pad := (n - acc.length % n) % n
    payloadOf rest (acc ++ List.replicate pad 0 ++ leBytes n v)

/-- The status bits that an event sets wherever it arises. -/
def seenBits (typ : Nat) : List Fld :=
  if typ = Ev.PARSE_FAIL then [Reg.FE_STATUS.PARSE_SEEN]
  else if typ = Ev.PRIV_FAIL then [Reg.FE_STATUS.PRIV_SEEN]
  else if typ = Ev.QUOTA_OVER then [Reg.FE_STATUS.QUOTA_OVER_SEEN]
  else if typ = Ev.SCHEDULE_OVERRUN then [Reg.SE_STATUS.OVERRUN_SEEN]
  else if typ = Ev.SEM_OVERFLOW then [Reg.SE_STATUS.SEM_OVF_SEEN]
  else if typ = Ev.STREAM_NACK then [Reg.SE_STATUS.NACK_SEEN]
  else if typ = Ev.POLICY_BUDGET then [Reg.POLICY_STATUS.BUDGET_EXCESS]
  else if typ = Ev.COLL_PEER_LOST then [Reg.COLL_STATUS.PEER_LOST_SEEN]
  else if typ = Ev.LINK_DOWN || typ = Ev.LINK_LOST then [Reg.COLL_STATUS.LINK_DOWN_SEEN]
  else if typ = Ev.NBR_HOLD then [Reg.PWR_STATUS.NBR_SEEN]
  else if typ = Ev.THERM_WARN then [Reg.PWR_STATUS.WARN_SEEN]
  else if typ = Ev.HBM_HOT then [Reg.PWR_STATUS.HBM_HOT_SEEN]
  else if typ = Ev.CAP_FLOORED then [Reg.PWR_STATUS.CAP_FLOORED]
  else if typ = Ev.REF_CLAMP then [Reg.REF_STATUS.CLAMP_SEEN]
  else if typ = Ev.REF_HOLD then [Reg.REF_STATUS.HOLD_SEEN]
  else if typ = Ev.CAPTAIN_WDOG then [Reg.REF_STATUS.WDOG_SEEN]
  else []

def State.setBits (s : State) (fs : List Fld) : State := fs.foldl (fun s f => s.wr f 1) s

/-! ## Events (R494, R507 to R512) -/

def State.valid (s : State) : Bool := s.on Reg.FIT_STATUS.VALID

/-- From the whistle until the fitness map is published no event record is posted (R502). -/
def State.muted (s : State) : Bool := s.stopped || (s.pins.whistle && !s.valid)

/-- The 64 bytes of a record with a PHASE bit (R447, R496). -/
def Event.bytes (e : Event) (phase : Nat) : List Nat :=
  leBytes 8 (e.typ + e.sev * 2 ^ 16 + e.subsys * 2 ^ 20 + e.coal * 2 ^ 24 + e.src * 2 ^ 32 + phase * 2 ^ 63) ++
  leBytes 8 e.time ++ leBytes 8 (e.ctx + b2n e.hasCtx * 2 ^ 12) ++
  (e.payload ++ List.replicate 32 0).take 32 ++ [e.cls, 0] ++ leBytes 4 e.fold ++ [0, 0]

/-- A record written to the trace ring in device memory and to the retention buffer (R512), at once: the way there is never full
(DESIGN CHOICE, log entry 129). -/
def State.traceEvent (s : State) (e : Event) : State :=
  let s := { s with ev := { s.ev with trace := (e :: s.ev.trace).take 2048 } }
  if s.on Reg.FLT_TRC_CTRL.EN then
    let head := s.rd Reg.FLT_TRC_HEAD.HEAD
    let size := 2 ^ s.ev.trcSizeLog2
    let s := if size ≤ head - s.rd Reg.FLT_TRC_TAIL.TAIL then s.inc Reg.FLT_TRC_OVERWRITTEN.COUNT 1 else s
    let at_ := s.ev.trcBase + 64 * (head % size)
    /- a record is two full sectors: their poison goes (R282) -/
    let s := { s with hbm := s.hbm.wrBytes at_ (e.bytes 0), poison := s.poison.filter fun p => !(decide (at_ ≤ p) && decide (p < at_ + 64)) }
    s.wr Reg.FLT_TRC_HEAD.HEAD (head + 1)
  else s

def State.traced (s : State) (subsys : Nat) : Bool := bitOf (s.rd Reg.FLT_CTRL.TRACE_SUBSYS) subsys

/-- A trace point (R512). -/
def State.tracePoint (s : State) (typ subsys src : Nat) (payload : List Nat) : State :=
  if s.traced subsys then
    s.traceEvent ⟨typ, 0, 0, subsys, src, false, 0, s.now, 0, 0, payload⟩
  else s

def State.post (s : State) (e : Event) : State :=
  if s.muted then s else { s with ev := { s.ev with posted := s.ev.posted ++ [e] } }

/-- One more like event folded into a record. -/
def Event.folded (p : Event) : Event :=
  { p with coal := min (p.coal + 1) 255, fold := min (p.fold + 1) 0xFFFFFFFF }

def Win.key (w : Win) (e : Event) : Bool := w.typ = e.typ && w.src = e.src && w.hasCtx = e.hasCtx && w.ctx = e.ctx

/-- The end of a coalescing window that opens now (R509, R522). -/
def State.windowEnd (s : State) : Nat := s.now + 1000 * s.rd Reg.FLT_CTRL.WINDOW_US

/-- The event path with its coalescing windows (R509). -/
def State.coalesce (s : State) (e : Event) : State :=
  if s.muted then s
  else
    match s.ev.wins.find? (fun w => w.key e) with
    | none =>
      let s := s.post e
      if s.ev.wins.length < 512 then
        { s with ev := { s.ev with wins := s.ev.wins ++ [⟨e.typ, e.src, e.hasCtx, e.ctx, none, s.windowEnd⟩] } }
      else s
    | some w =>
      let p := match w.pend with
        | none => e
        | some p => p.folded
      let upd := fun (q : Option Event) (s : State) =>
        { s with ev := { s.ev with wins := s.ev.wins.map fun x => if x.key e then { x with pend := q } else x } }
      if p.coal = 255 then upd none (s.post p) else upd (some p) s

/-- The window of a rate limiter is 1 ms (R38). -/
def rateWindow := 1000000

/-- A rate-limited record of R38, posted at once or folded. -/
def Rate.feed (r : Rate) (now : Nat) (e : Event) : Rate × Option Event :=
  if r.isOpen then
    match r.pend with
    | none => ({ r with pend := some e }, none)
    | some p => ({ r with pend := some p.folded }, none)
  else (⟨true, none, now + rateWindow⟩, some e)

/-- The alarm path (R510): 4,096 shared places and one reserved place per TYPE. -/
def State.queueAlarm (s : State) (e : Event) : State :=
  let fold := fun (p : Alarm → Bool) =>
    { s with ev := { s.ev with alarms := s.ev.alarms.map fun a => if p a then { a with ev := a.ev.folded } else a } }
  if s.ev.alarms.any (fun a => a.ev.typ = e.typ && a.ev.src = e.src) then
    fold fun a => a.ev.typ = e.typ && a.ev.src = e.src
  else if (s.ev.alarms.filter (fun a => !a.reserved)).length < 4096 then
    { s with ev := { s.ev with alarms := s.ev.alarms ++ [⟨e, false, false, false⟩] } }
  else if s.ev.alarms.any (fun a => a.reserved && a.ev.typ = e.typ) then
    fold fun a => a.reserved && a.ev.typ = e.typ
  else { s with ev := { s.ev with alarms := s.ev.alarms ++ [⟨e, false, false, true⟩] } }

/-- The class counter of a fault (R520): 0 C, 1 P, 2 Q, 3 D, 4 alarm. -/
def classCounter (cls : Nat) : Fld :=
  if cls = 0 then Reg.FLT_CLASS_C.COUNT else if cls = 1 then Reg.FLT_CLASS_P.COUNT
  else if cls = 2 then Reg.FLT_CLASS_Q.COUNT else if cls = 3 then Reg.FLT_CLASS_D.COUNT else Reg.FLT_ALARM.COUNT

/-- The class Q events that the fault log takes (R515). -/
def faultLogged (typ : Nat) : Bool := [Ev.MEM_UE, Ev.SRAM_UE, Ev.TMA_ECC, Ev.TMA_SELFTEST].contains typ

/-- An event raised: counted, traced, logged, its status bit set, and put on its path (R492 to R515). A class Q event
that concerns no context is handled as class C (R493). -/
def State.raise (s : State) (typ cls0 subsys src : Nat) (ctx : Option Nat) (payload : List (Nat × Nat)) : State :=
  let cls := if cls0 = 2 && ctx.isNone then 0 else cls0
  let e : Event :=
    { typ := typ, cls := cls, sev := if 3 ≤ cls then 4 else cls, subsys := subsys, src := src, hasCtx := ctx.isSome,
      ctx := ctx.getD 0, time := s.now, coal := 0, fold := 0, payload := payloadOf payload [] }
  let s := s.inc (classCounter cls) 1
  let s := { s with ev := { s.ev with counts := modifyAt s.ev.counts cls (· + 1) } }
  let s := s.setBits (seenBits typ)
  let s := if 2 ≤ cls || s.traced subsys then s.traceEvent { e with sev := cls } else s
  let s := if 3 ≤ cls || (cls = 2 && faultLogged typ) then
      { s with ev := { s.ev with faultLog := s.ev.faultLog ++ [{ e with sev := cls }] } } else s
  if 3 ≤ cls then s.queueAlarm e
  else if typ = Ev.LOCK_VIOLATION then
    let r := s.ev.lock.feed s.now e
    let s := { s with ev := { s.ev with lock := r.1 } }
    match r.2 with
    | some e => s.post e
    | none => s
  else if typ = Ev.REF_DENY then
    let r := s.ev.deny.feed s.now e
    let s := { s with ev := { s.ev with deny := r.1 } }
    match r.2 with
    | some e => s.post e
    | none => s
  else s.coalesce e

/-- A class C event. -/
def State.note (s : State) (typ subsys src : Nat) (ctx : Option Nat) (payload : List (Nat × Nat)) : State :=
  s.raise typ 0 subsys src ctx payload

/-! ## Interrupts and notifications -/

/-- The vector control mask of an MSI-X vector; masked at reset as PCIe defines (log entry 8). -/
def State.msixMasked (s : State) (vec : Nat) : Bool := bitOf (mapGet s.msix (2 ^ 32) (2 * vec + 1)) 32

def State.msixSend (s : State) (vec : Nat) : State :=
  if s.msixMasked vec then { s with msixPend := s.msixPend ||| 2 ^ vec } else s.send (.msix vec)

/-- An armed notification whose condition holds fires (R443). -/
def State.notify (s : State) (c : Nat) : State :=
  if s.on (Reg.SB_NOTIFY_CTRL.ARM c) &&
      (decide (s.rd (Reg.SB_NOTIFY.TARGET c) ≤ s.rd (Reg.SB_DONE_SEQ.SEQ c)) || (s.ctx c).st != .active) then
    (s.wr (Reg.SB_NOTIFY_CTRL.ARM c) 0).msixSend (s.rd (Reg.SB_NOTIFY_CTRL.VEC c))
  else s

/-! ## Locks and the Referee's windows -/

/-- A dropped write recorded as a lock violation (R37, R39). -/
def State.lockViolation (s : State) (src off dropped : Nat) : State :=
  let s := (s.wr Reg.LOCK_STATUS.LOCK_VIOLATION 1).wr Reg.LOCK_STATUS.LAST_SRC src
  let s := (s.inc Reg.LOCK_STATUS.VIOL_COUNT 1).wr Reg.LOCK_LAST_ADDR.ADDR off
  s.note Ev.LOCK_VIOLATION 14 refIsland none [(4, off), (1, src), (8, dropped)]

/-- A DMA window admits all bytes of a request (R479). -/
def State.windowAdmits (s : State) (addr len : Nat) (write : Bool) : Bool :=
  (List.range 16).any fun w =>
    let base := s.rd (Reg.REF_WIN_BASE.BASE w) * 4096
    let size := (s.rd (Reg.REF_WIN_CTRL.PAGES w) + 1) * 4096
    decide (base ≤ addr) && decide (addr + len ≤ base + size) &&
      (if write then s.on (Reg.REF_WIN_CTRL.WR w) else s.on (Reg.REF_WIN_CTRL.RD w))

/-- A refused request to host memory (R480). -/
def State.deny (s : State) (addr requester : Nat) : State :=
  let s := (s.inc Reg.REF_COUNT.DENIED 1).wr Reg.REF_DENY_ADDR.ADDR addr
  let s := (s.wr Reg.REF_STATUS.LAST_DENY_SRC requester).wr Reg.REF_STATUS.DENY_SEEN 1
  s.note Ev.REF_DENY 14 refIsland none [(8, addr), (1, requester)]

/-! ## Device memory (R275 to R284) -/

/-- H of R275. -/
def State.hbmTop (s : State) : Nat :=
  match s.fit with
  | some m => if m.fencedStack.isSome then 704 * 2 ^ 30 else 768 * 2 ^ 30
  | none => 768 * 2 ^ 30
/-- The first byte of the device reserve. -/
def State.reserve (s : State) : Nat := s.hbmTop - 0x80000000

/-- The stacks in service, ascending. -/
def State.stackList (s : State) : List Nat :=
  (List.range 12).filter fun k => match s.fit with
    | some m => m.fencedStack != some k
    | none => true

/-- The stack of a device address (R277). -/
def State.stackOf (s : State) (a : Nat) : Nat := nth s.stackList 0 ((a / 256) % s.stackList.length)
/-- The channel of a device address (R277). -/
def State.channelOf (s : State) (a : Nat) : Nat :=
  let q := a / 256 / s.stackList.length
  (q ^^^ (q / 32) ^^^ (q / 1024)) % 32
/-- The byte offset within the channel (R277). -/
def State.chanOffset (s : State) (a : Nat) : Nat := (a / 256 / s.stackList.length / 32) * 256 + a % 256

/-- The sectors that a range of bytes touches and that are poisoned. -/
def State.poisonIn (s : State) (a n : Nat) : Option Nat :=
  s.poison.find? fun p => decide (a < p + 32) && decide (p < a + n)

/-- The 32 bytes of a failure-list entry (R517). -/
def FailRec.bytes (f : FailRec) : List Nat :=
  [f.kind, 0] ++ leBytes 2 f.typ ++ leBytes 4 f.id ++ leBytes 4 f.detail ++ leBytes 4 f.bootSeq ++ leBytes 8 f.time ++
  List.replicate 8 0

/-! ## Boot stages (R562) -/

def Stage.OFF := 0
def Stage.STANDBY := 1
def Stage.ROM := 2
def Stage.SCAN := 3
def Stage.READY := 4
def Stage.UNFIT := 5
def Stage.FAILED := 6

def State.stage (s : State) : Nat := s.rd Reg.BOOT_STATUS.STAGE

/-- A failure recorded under a boot's number, once. -/
def State.recordFailAt (s : State) (seq kind typ id detail : Nat) : State :=
  if s.fails.any (fun f => f.kind = kind && f.id = id && f.detail = detail) then s
  else { s with fails := s.fails ++ [⟨kind, typ, id, detail, seq, s.now⟩] }

/-- A failure recorded for the next boot (R65, R284). Once the fitness scan has started it counts for the boot under way, and
is carried to the boot that follows (R26). -/
def State.recordFail (s : State) (kind typ id detail : Nat) : State :=
  s.recordFailAt (if s.stage = Stage.SCAN then s.bootSeq + 1 else s.bootSeq) kind typ id detail

/-- What the code finds: it corrects an error in one symbol and detects one in two (R279); an SRAM word's code does the same by
bits (R285). -/
def MemErr.found (e : MemErr) : ErrFound :=
  match e.syms.eraseDups.length with
  | 0 => .none
  | 1 => .ce
  | 2 => .ue
  | _ => Config.wideError e

/-- The row index of a sector: the controller's number and the channel that the interleave gives (R277, R284). -/
def State.rowOf (s : State) (e : MemErr) : Nat := e.row % 2 ^ 27 * 32 + s.channelOf (e.addr / 32 * 32)

/-- Spare rows of a row's channel that recorded rows have taken or will take at the next boot (R284). -/
def State.sparesUsed (s : State) (st row : Nat) : Nat :=
  (s.fails.filter fun f => f.kind = 4 && f.id = st && f.detail % 32 = row % 32).length

/-- A row with corrected errors in three distinct sectors: recorded for a spare row, or with none left in its channel the
stack is recorded as failed (R284). -/
def State.rowWorn (s : State) (st row : Nat) : State :=
  if s.fails.any fun f => f.kind = 4 && f.id = st && f.detail = row then s
  else if 32 ≤ s.sparesUsed st row then s.recordFail 3 Ev.MEM_CE st 0
  else s.recordFail 4 Ev.MEM_CE st row

/-- What a read's error check found, applied to the sector (R280 to R284). -/
def State.memErr (s : State) (e : MemErr) : State :=
  let sec := e.addr / 32 * 32
  let st := s.stackOf sec
  let row := s.rowOf e
  match e.found with
  | .none => s
  | .ce =>
    let s := (s.inc (Reg.MEM_STACK_COUNT.CE st) 1).wr Reg.MEM_STATUS.CE_SEEN 1
    let s := if s.ceRows.contains (st, row, sec) then s else { s with ceRows := (st, row, sec) :: s.ceRows }
    let s := if 3 ≤ (s.ceRows.filter fun r => r.1 = st && r.2.1 = row).length then s.rowWorn st row else s
    s.note Ev.MEM_CE 6 (stackIsland st) none [(8, sec), (1, st)]
  | .ue =>
    if s.poison.contains sec then s
    else
      let s := (s.inc (Reg.MEM_STACK_COUNT.UE st) 1).wr Reg.MEM_STATUS.UE_SEEN 1
      let s := { s with poison := sec :: s.poison }
      let s := if s.ueRows.contains (st, row) then s else { s with ueRows := (st, row) :: s.ueRows }
      if 16 < (s.ueRows.filter fun r => r.1 = st).length then s.recordFail 3 Ev.MEM_UE st 0 else s

def State.memErrs (s : State) (es : List MemErr) : State := es.foldl State.memErr s

/-- MEM_UE_ADDR takes the sector of a MEM_UE event (R281). -/
def State.ueAddr (s : State) (sec : Nat) : State := (s.wr Reg.MEM_UE_ADDR.ADDR sec).wr Reg.MEM_UE_ADDR.STACK (s.stackOf sec)

/-- A read met a poisoned sector: the status it leaves (R281, R292). -/
def State.poisonRead (s : State) (sec : Nat) : State := (s.wr Reg.MEM_STATUS.POISON_READ 1).ueAddr sec

/-- A write to device memory: full sectors lose their poison, bytes of a partly written poisoned sector are dropped, and
the first such sector is named (R282). -/
def State.devWrite (s : State) (a : Nat) (bytes : List Nat) : State × Option Nat :=
  let n := bytes.length
  let full := fun p => decide (a ≤ p) && decide (p + 32 ≤ a + n)
  let touch := fun p => decide (a < p + 32) && decide (p < a + n)
  let bad := s.poison.filter fun p => touch p && !full p
  let hbm :=
    if bad.isEmpty then s.hbm.wrBytes a bytes
    else (List.range n).foldl (fun m i =>
      if bad.contains ((a + i) / 32 * 32) then m else m.wrByte (a + i) (BitVec.ofNat 8 (nth bytes 0 i))) s.hbm
  ({ s with hbm := hbm, poison := s.poison.filter fun p => !(touch p && full p) }, bad.head?)

/-- Bytes at a place in host or device memory. -/
def State.read (s : State) (l : Loc) (n : Nat) : List Nat := if l.host then s.hostMem.rdBytes l.addr n else s.hbm.rdBytes l.addr n
def State.readNat (s : State) (l : Loc) (n : Nat) : Nat := leNat (s.read l n)
def Loc.plus (l : Loc) (n : Nat) : Loc := { l with addr := l.addr + n }

/-- Bytes written at a place; a partly written poisoned sector drops them (the caller handles the fault). -/
def State.write (s : State) (l : Loc) (bytes : List Nat) : State :=
  if l.host then { s with hostMem := s.hostMem.wrBytes l.addr bytes } else (s.devWrite l.addr bytes).1

/-! ## Ops in flight -/

/-- Classes of R307. -/
def Cls.TENSOR := 0
def Cls.CONVERT := 1
def Cls.STREAM := 2
def Cls.FILTAS := 3
def Cls.PATTERN := 4
def Cls.COLLECTIVE := 5
def Cls.STEP := 6
def Cls.SYNC := 7

/-- Operand `i` of an op. -/
def Op.opnd (o : Op) (i : Nat) : Opnd := nth o.opnds .null i
def Op.num (o : Op) (i : Nat) : Nat :=
  match o.opnd i with
  | .num (.imm v) => v
  | _ => 0
def Op.ref? (o : Op) (i : Nat) : Option Ref :=
  match o.opnd i with
  | .ref r => some r
  | _ => none

/-- The tile group of an op that runs on tiles. -/
def Op.group? (o : Op) : Option Nat :=
  if o.cls = Cls.TENSOR || o.cls = Cls.CONVERT || o.cls = Cls.FILTAS || o.cls = Cls.PATTERN ||
    (o.cls = Cls.STREAM && o.code = 1) || (o.cls = Cls.SYNC && 1 ≤ o.code && o.code ≤ 4) then some (o.num 0) else none
def Op.tiles (o : Op) : List Nat :=
  match o.group? with
  | some g => groupTiles g
  | none => []
def Op.isConfig (o : Op) : Bool := o.cls = Cls.SYNC && (o.code = 1 || o.code = 2)

def Buf.op? (b : Buf) (id : Nat) : Option Op := b.ops.find? fun o => o.id = id

def State.buf? (s : State) (c q : Nat) : Option Buf := s.fe.bufs.find? fun b => b.ctx = c && b.seq = q

/-- An op in flight; none while the whistle has stopped the islands (R499). -/
def State.op? (s : State) (k : OpKey) : Option Op :=
  if s.stopped then none else (s.buf? k.ctx k.seq).bind fun b => b.op? k.id

def State.setBufs (s : State) (bs : List Buf) : State := { s with fe := { s.fe with bufs := bs } }

def State.modOp (s : State) (k : OpKey) (f : Op → Op) : State :=
  s.setBufs (s.fe.bufs.map fun b =>
    if b.ctx = k.ctx && b.seq = k.seq then { b with ops := b.ops.map fun o => if o.id = k.id then f o else o } else b)

/-- The effect of an op is whole; OP_COMPLETE completes it. -/
def State.executed (s : State) (k : OpKey) : State := s.modOp k fun o => { o with st := .executed, work := .none }

/-- Every transfer of an op's fetch has landed. -/
def Op.fetched (o : Op) : Bool := o.fetch.todo.isEmpty && o.fetch.out.isEmpty

/-- The op of a key, when it is of the class and code asked for, stands at the stage asked for, its read operands have been
fetched (R338), and none of its tiles lies on a held island: there it waits (R146, R177, R208, R363, R534). -/
def State.opIs (s : State) (k : OpKey) (cls code : Nat) (st : OpSt) : Option Op :=
  match s.op? k with
  | some o => if o.cls = cls && o.code = code && o.st = st && o.fetched && !o.tiles.any s.heldTile then some o else none
  | none => none

/-- Every op in flight with its key. -/
def State.allOps (s : State) : List (OpKey × Op) :=
  s.fe.bufs.flatMap fun b => b.ops.map fun o => (⟨b.ctx, b.seq, o.id⟩, o)

/-- A nanosecond counts as no running time of an op while some island that executes it is held (R327). -/
def State.pauseHeld (s : State) : State :=
  s.setBufs (s.fe.bufs.map fun b => { b with ops := b.ops.map fun o =>
    if (o.st = .running || o.st = .executed) && o.tiles.any s.heldTile then { o with paused := o.paused + 1 } else o })

/-- The running time of an op in ns (R327). -/
def State.ranFor (s : State) (o : Op) : Nat := s.now - o.t0 - o.paused

/-- The timeout clock of a stream's op starts anew, as its stream delivers (R234, R257). -/
def State.restartClock (s : State) (k : OpKey) : State := s.modOp k fun o => { o with t0 := s.now, paused := 0 }

/-- Ops in flight: not completed, of accepted buffers (R323). -/
def State.inFlight (s : State) : Nat := (s.allOps.filter fun p => p.2.st != .done).length
def State.ctxInFlight (s : State) (c : Nat) : Nat := (s.allOps.filter fun p => p.1.ctx = c && p.2.st != .done).length

/-! ## Step controller state that faults touch -/

def State.phase (s : State) : Nat := s.rd Reg.SC_STATUS.PHASE
def Phase.OPEN := 0
def Phase.VOTING := 1
def Phase.PREPARED := 2
def Phase.PIN_WAIT := 3
def Phase.IN_DOUBT := 4

def pinFld (slot : Nat) : Fld := if slot = 0 then Reg.SC_STATUS.PIN0 else Reg.SC_STATUS.PIN1

/-- A snapshot's pin released (R391, R392). -/
def State.unpin (s : State) (slot : Nat) : State := s.wr (pinFld slot) (s.rd (pinFld slot) - 1)

/-! ## The stream engine's islands (R11, R364) -/

/-- The hub island 3 in whose DMA side a stream runs: that of the hub context that the op, or the pair it names, holds; where
the context is a compute die's, hub 0's (DESIGN CHOICE, log entry 117). -/
def State.streamIsland (s : State) (k : OpKey) (pair : Option Nat) : Nat :=
  match s.se.holds.find? fun h => h.ctx = k.ctx && decide (16 ≤ h.unit) && (h.holder = Holder.op k || match pair with
    | some p => h.holder = Holder.pair k.seq p
    | none => false) with
  | some h => islandId h.unit 3
  | none => islandId 16 3

/-! ## Discard and class Q faults (R62, R296, R492) -/

/-- A tile after a discard order for the context: its ops are killed and it becomes QUIET (R61, R121, R145, R208). -/
def Tile.discard (t : Tile) (c : Nat) : Tile :=
  let mine := fun (k : Option OpKey) => match k with
    | some k => k.ctx = c
    | none => false
  if mine t.running || mine t.deck || (match t.loading with | some l => l.2.2.ctx = c | none => false) then
    { t with st := if t.st = .idle then .idle else .quiet, running := none, deck := none, loading := none, edits := [], emit := [], recs := [],
             samples := [], replay := if t.replay = .halted then .halted else .check }
  else { t with emit := t.emit.filter (fun r => r.key.ctx != c), recs := t.recs.filter (fun r => r.key.ctx != c),
                edits := t.edits.filter (fun e => e.key.ctx != c), samples := t.samples.filter fun x => x.ctx != c }

/-- A stall on full rings that began at `since` ends: its microseconds are counted (R235, R244). -/
def State.stallEnds (s : State) (since : Option Nat) : State :=
  match since with
  | some t => s.inc Reg.FILTAS_SCORE_COUNT3.RING_STALL ((s.now - t) / 1000)
  | none => s

/-- The stalls in progress of a context's streams. -/
def State.stallsOf (s : State) (c : Nat) : List (Option Nat) :=
  (s.se.streams.filter fun x => x.ctx = c).map (·.stall) ++ s.allOps.filterMap fun p => match p.2.work with
    | .pattern w => if p.1.ctx = c then some w.stall else none
    | _ => none

/-- Pins that the context's snapshots hold. -/
def State.snapSlots (s : State) (c : Nat) : List Nat :=
  s.allOps.filterMap fun p => match p.2.work with
    | .snap slot _ _ _ => if p.1.ctx = c then some slot else none
    | _ => none

/-- The discard order of a context: every staged and running op of it, and every accepted buffer (R62, R296). -/
def State.discard (s : State) (c : Nat) : State :=
  let n := s.ctxInFlight c
  let ran := s.allOps.filter fun p => p.1.ctx = c && p.2.st != .waiting
  let s := (s.snapSlots c).foldl State.unpin s
  let s := (s.stallsOf c).foldl State.stallEnds s
  let s := (s.inc Reg.FE_COUNT1.DISCARDED n).modCtx c fun x =>
    { x with discarded := x.discarded + n, discard := some (x.limitMs, s.now) }
  let s := { s with tiles := mapVals (fun _ t => t.discard c) s.tiles }
  let s := s.setBufs (s.fe.bufs.filter fun b => b.ctx != c)
  let s := { s with fe := { s.fe with desc := match s.fe.desc with
      | some d => if d.ctx = c then none else some d
      | none => none } }
  let dug := fun (h : Hold) => match h.holder with
    | .qp _ _ => h
    | _ => if h.ctx = c then { h with st := .dugout } else h
  { s with se := { s.se with
      holds := s.se.holds.map dug
      pairs := s.se.pairs.map fun p => if p.ctx = c then { p with waiters := [] } else p
      streams := s.se.streams.filter fun x => x.ctx != c
      dropped := s.se.dropped ++ ran } }

/-- SEQ of the oldest accepted buffer of a context that has not completed. -/
def State.oldestSeq (s : State) (c : Nat) : Nat :=
  match s.fe.bufs.find? fun b => b.ctx = c with
  | some b => b.seq
  | none => s.rd (Reg.SB_ERR_SEQ.SEQ c)

/-- A discard order that reaches a running STEP_COMMIT in VOTING or PREPARED leaves the step IN_DOUBT; a commit
sequence that has begun goes on (R382, R384, log entry 80). -/
def State.commitDoubt (s : State) : State :=
  match s.sc.commit with
  | none => s
  | some _ =>
    let s' := { s with sc := { s.sc with commit := none } }
    if (s.phase = Phase.VOTING || s.phase = Phase.PREPARED) && s.sc.flip.isNone then
      ((s'.wr Reg.SC_STATUS.PHASE Phase.IN_DOUBT).wr Reg.SC_LAST.OUTCOME 4).raise Ev.COMMIT_IN_DOUBT 2 9 hostIsland (some 0) []
    else s'

/-- The context leaves ACTIVE for ERROR: error sequence, count, discard (R296). -/
def State.enterError (s : State) (c errSeq lastErr : Nat) : State :=
  if (s.ctx c).st = .active then
    let s := (s.wr (Reg.SB_ERR_SEQ.SEQ c) errSeq).wr (Reg.SB_STATE.ERRORS c)
      (min (s.rd (Reg.SB_STATE.ERRORS c) + 1) 0xFFFF)
    let s := s.modCtx c fun x => { x with st := .error, lastErr := lastErr }
    let doubt := c = 0 && s.sc.commit.isSome
    let s := s.discard c
    let s := if doubt then s.commitDoubt else s
    s.notify c
  else s

/-- One class Q fault on a context, without the buffers of other contexts that wait on it. -/
def State.fault1 (s : State) (typ subsys src c errSeq lastErr : Nat) (payload : List (Nat × Nat)) : State :=
  let s := s.raise typ 2 subsys src (some c) payload
  let s := if s.rd Reg.SC_CTRL.TRAIN_CTX = c then s.wr Reg.SC_STATUS.STEP_FAULT 1 else s
  s.enterError c errSeq lastErr

/-- Buffers whose awaited context has left ACTIVE before the wait was met fail with DEP_LOST (R303). -/
def State.settleDeps : Nat → State → State
  | 0, s => s
  | n + 1, s =>
    match s.fe.bufs.find? (fun b => b.wait && !b.waitMet && (s.ctx b.waitCtx).st != .active) with
    | none => s
    | some b =>
      State.settleDeps n
        (s.fault1 Ev.DEP_LOST 7 feIsland b.ctx b.seq 0 [(8, b.seq), (8, b.waitSeq), (2, b.waitCtx)])

/-- A class Q fault on a context (R492, R296). -/
def State.faultQ (s : State) (typ subsys src c : Nat) (payload : List (Nat × Nat)) : State :=
  let s := s.fault1 typ subsys src c (s.oldestSeq c) 0 payload
  s.settleDeps s.fe.bufs.length

/-- A class Q fault of an op on its context. -/
def State.opFault (s : State) (k : OpKey) (typ subsys src : Nat) (payload : List (Nat × Nat)) : State :=
  s.faultQ typ subsys src k.ctx payload

/-- A failed check of a descriptor or buffer (R317, R318). -/
def State.parseFail (s : State) (c seq code off opId : Nat) : State :=
  let typ := if code = 12 then Ev.PRIV_FAIL else Ev.PARSE_FAIL
  let s := (s.inc Reg.FE_COUNT1.REJECTED 1).wr Reg.FE_STATUS.LAST_ERR_CTX c
  let s := s.fault1 typ 7 feIsland c seq code [(8, seq), (4, off), (2, opId), (1, code)]
  s.settleDeps s.fe.bufs.length

/-! ## Completion (R304, R322, R336, R344) -/

/-- The awaited sequence of a buffer's WAIT has been reached (R303). -/
def State.markWaits (s : State) : State :=
  s.setBufs (s.fe.bufs.map fun b =>
    if b.wait && !b.waitMet && decide (b.waitSeq ≤ s.rd (Reg.SB_DONE_SEQ.SEQ b.waitCtx))
    then { b with waitMet := true } else b)

def Buf.complete (b : Buf) : Bool := b.ops.all fun o => o.st = .done

/-- The oldest buffers of a context leave once complete, and the scoreboard takes their SEQ (R304, R442). -/
def State.retire : Nat → State → Nat → State
  | 0, s, _ => s
  | n + 1, s, c =>
    match s.fe.bufs.find? fun b => b.ctx = c with
    | none => s
    | some b =>
      if b.complete then
        State.retire n
          ((s.setBufs (s.fe.bufs.filter fun x => !(x.ctx = c && x.seq = b.seq))).wr (Reg.SB_DONE_SEQ.SEQ c) b.seq) c
      else s

/-- A tile whose running op completes: READY with an empty deck, CONFIG when its on-deck op is a TILE_CONFIG, else BUSY
(R61). -/
def Tile.finish (t : Tile) (k : OpKey) (config : OpKey → Bool) : Tile :=
  if t.running = some k then
    { t with running := none, st := match t.deck with
      | none => .ready
      | some d => if config d then .config else .busy }
  else t

/-- The key names a TILE_CONFIG. -/
def State.isTileConfig (s : State) (k : OpKey) : Bool :=
  match s.op? k with
  | some o => o.cls = Cls.SYNC && o.code = 1
  | none => false

/-- The pairs that an op names: MOVE with a role, SEM_SIGNAL, SEM_WAIT (R343, R345). -/
def Op.pair? (o : Op) : Option Nat :=
  if o.cls = 2 && o.code = 0 then (if o.num 5 = 0 then none else some (o.num 6))
  else if o.cls = 2 && (o.code = 2 || o.code = 3) then some (o.num 0)
  else none

/-- Pairs none of whose ops is left, released with their stream context (R344). -/
def State.releasePairs (s : State) (c q : Nat) : State :=
  match s.buf? c q with
  | none => s
  | some b =>
    let live := fun p => b.ops.any fun o => o.st != .done && o.pair? = some p
    { s with se := { s.se with
        pairs := s.se.pairs.filter fun p => !(p.ctx = c && p.seq = q && !live p.pair)
        holds := s.se.holds.filter fun h => match h.holder with
          | .pair q' p => !(h.ctx = c && q' = q && !live p)
          | _ => true } }

/-- An op completes: its tiles move on, its stream contexts are released, its buffer may retire (R304, R322). -/
def State.completeOp (s : State) (k : OpKey) : State :=
  match s.op? k with
  | none => s
  | some o =>
    let s := s.modOp k fun o => { o with st := .done, work := .none }
    let s := { s with tiles := mapVals (fun _ t => t.finish k s.isTileConfig) s.tiles }
    let s := { s with se := { s.se with
        holds := s.se.holds.filter (fun h => h.holder != Holder.op k || h.ctx != k.ctx)
        trees := s.se.trees.filter (fun t => t.key != k) } }
    let s := s.releasePairs k.ctx k.seq
    let s := s.tracePoint Ev.TP_OP_DONE 7 feIsland (payloadOf [(8, k.seq), (2, k.id), (1, o.cls), (1, o.code)] [])
    let s := s.retire s.fe.bufs.length k.ctx
    (s.markWaits).notify k.ctx

/-! ## Class D faults: the whistle (R498 to R502) -/

/-- STAGE takes a value, and STAGE_MS the time since PERST_N was last released (R562). -/
def State.setStage (s : State) (v : Nat) : State :=
  (s.wr Reg.BOOT_STATUS.STAGE v).wr Reg.BOOT_STATUS.STAGE_MS (min ((s.now - s.pins.tRelease) / 1000000) 0xFFFF)

/-- SB_DONE_SEQ of every context copied to FLT_WHISTLE_DONE (R500 step 2). -/
def State.copyDone (s : State) : State :=
  let listed := (List.range 4096).filter fun c =>
    s.rd (Reg.SB_DONE_SEQ.SEQ c) != 0 || s.rd (Reg.FLT_WHISTLE_DONE.SEQ c) != 0
  listed.foldl (fun s c => s.wr (Reg.FLT_WHISTLE_DONE.SEQ c) (s.rd (Reg.SB_DONE_SEQ.SEQ c))) s

/-- A DOWN_NOTICE on every port that is UP (R413). -/
def State.downNotices (s : State) : State :=
  (List.range 18).foldl (fun s p => if s.rd (Reg.LINK_PORT.STATE p) = 2 then s.send (.ctrl 5 p []) else s) s

/-- A class D fault: during a boot it fails the boot (R561); in service it sounds the whistle, steps 1 to 3 of R500, unless one
is already sounding (R502). -/
def State.faultD (s : State) (typ subsys src : Nat) (ctx : Option Nat) (payload : List (Nat × Nat)) : State :=
  let during := s.muted
  let s := (s.raise typ 3 subsys src ctx payload).wr Reg.SC_STATUS.STEP_FAULT 1
  if s.stage = Stage.ROM || s.stage = Stage.SCAN then (s.setStage Stage.FAILED).wr Reg.BOOT_STATUS.FAIL 2
  else if during || !(s.stage = Stage.READY || s.stage = Stage.UNFIT) then s
  else
    let s := ((s.wr Reg.FLT_STATUS.CAUSE 1).wr Reg.FLT_STATUS.D_TYPE typ).wr Reg.FLT_WHISTLE_TIME.TIME s.now
    let s := s.downNotices
    let s := { s with stopped := true, pins := { s.pins with whistle := true } }
    let s := s.copyDone
    { s with ev := { s.ev with capture := s.ev.trace } , box := { s.box with whistles := s.box.whistles + 1 } }

end Sys2Proof.Machine
end

