-- ==== Sys2Proof/Machine/Operands.lean ====
section
/-! DEFINITION. Operand slots: how an op's words are read, which values are in range, how handles are relocated and
numbers fetched at dispatch, and how an op's accesses to host and device memory are judged (R307 to R317, R276, R281, R480). -/

namespace Sys2Proof.Machine

/-! ## Operand tables -/

/-- What one operand row of an op's table admits (R310). -/
inductive OpdKind
  /-- a number from `lo` to `hi`; `ind` where a value read at dispatch is admitted (log entry 9) -/
  | num (lo hi : Nat) (ind : Bool)
  /-- a handle: null admitted, read by the op, written by the op -/
  | handle (null rd wr : Bool)
  /-- a handle with a format -/
  | tensor (null rd wr : Bool)
  deriving DecidableEq, Repr

def bitsKind (w : Nat) : OpdKind := .num 0 (2 ^ w - 1) false
/-- A tile group descriptor; bits [31:30] are reserved (R63). -/
def groupKind : OpdKind := bitsKind 30
def dimKind : OpdKind := .num 1 (2 ^ 24 - 1) true
def rdKind : OpdKind := .handle false true false
def wrKind : OpdKind := .handle false false true
def rwKind : OpdKind := .handle false true true

/-- The op catalogue: the operand rows of each op in slot order (R311 to R313 and the op's own chapter). -/
def opTable (cls code : Nat) : Option (List OpdKind) :=
  match cls, code with
  | 0, 0 => some [groupKind, .tensor false true false, .tensor false true false, .tensor false false true,
      .tensor true true false, dimKind, dimKind, dimKind]
  | 0, 1 => some [groupKind, rdKind, .num 1 8388608 true, .num 1 4096 false, .num 1 1048576 false, wrKind, wrKind, wrKind,
      bitsKind 24, bitsKind 1]
  | 0, 2 => some ([groupKind, rdKind] ++ List.replicate 6 (.tensor true true false) ++
      List.replicate 4 (.num 0 (2 ^ 64 - 1) true))
  | 1, 0 => some [groupKind, .tensor false true false, .tensor false false true]
  | 2, 0 => some [.num 0 2 false, rdKind, wrKind, .num 0 (2 ^ 40 - 1) true, .num 0 8388608 false, .num 0 2 false,
      bitsKind 16, .num 0 4096 false, .handle true true true, .handle true false true, bitsKind 10, bitsKind 24,
      bitsKind 24, bitsKind 24]
  | 2, 1 => some [groupKind, rdKind, .num 64 131072 false, .num 0 131071 false]
  | 2, 2 => some [.num 0 1023 false, .num 1 4096 false, bitsKind 1, .num 1 4096 false]
  | 2, 3 => some [.num 0 1023 false, .num 1 4096 false, bitsKind 1, .num 1 4096 false]
  | 3, 0 => some [groupKind, rwKind, .num 1 (2 ^ 24 - 1) false, bitsKind 6, .num 0 (2 ^ 48 - 1) true, bitsKind 4, bitsKind 4,
      bitsKind 4, bitsKind 4, bitsKind 1, .num 0 2 false, bitsKind 1, rwKind, .num 1 (2 ^ 24 - 1) false,
      .handle true true false]
  | 4, 0 => some [groupKind, rwKind, .num 1 (2 ^ 24 - 1) false, bitsKind 10, .num 0 (2 ^ 48 - 1) true, rdKind, bitsKind 6,
      bitsKind 6, .handle true true true, .handle true true true, bitsKind 24, bitsKind 8, .handle true true true,
      bitsKind 8]
  | 5, k => if k < 3 then some [.tensor false true false, .tensor false false true, bitsKind 4, rdKind, .num 1 4096 false,
      .num 0 4095 false, bitsKind 32, bitsKind 1, .num 0 2 false, .num 1 (2 ^ 24 - 1) false, .num 0 4 false,
      .handle true true true, .handle true true false, .handle true false true, rwKind] else none
  | 6, 0 => some [bitsKind 64, bitsKind 1, .num 1 (2 ^ 24 - 1) false]
  | 6, 1 => some [rdKind, .num 1 65535 false, .num 0 (6 * 2 ^ 24 - 1) false, bitsKind 32, bitsKind 64, wrKind]
  | 7, 0 => some []
  | 7, 1 => some [groupKind, .num 0 4 false, rdKind]
  | 7, 2 => some [groupKind, rdKind]
  | 7, 3 => some [groupKind, rdKind, .num 1 65536 false, bitsKind 1]
  | 7, 4 => some [groupKind, bitsKind 16, .num 1 16 false, bitsKind 32]
  | 7, 5 => some [bitsKind 12, .num 0 256 false, .num 0 262144 false, .num 0 4096 false]
  | 7, 6 => some [bitsKind 12]
  | 7, 7 => some [bitsKind 12, bitsKind 32, bitsKind 1, bitsKind 2, bitsKind 64, .num 1 (2 ^ 40) false]
  | 7, 8 => some [bitsKind 12, bitsKind 32]
  | _, _ => none

/-- The ops that only context 0 may run (R311). -/
def kernelOnly (cls code : Nat) : Bool :=
  (cls = 6 && code = 0) || (cls = 7 && (code = 2 || code = 5 || code = 6 || code = 7 || code = 8))

/-! ## Reading slots (R308, R309) -/

/-- A slot: word 0 and word 1. -/
abbrev Slot := Nat × Nat

/-- A place before relocation: HANDLE and OFFSET packed as one address. -/
def rawLoc (w0 w1 : Nat) : Loc := ⟨false, bitsOf w0 32 32 * 2 ^ 40 + bitsOf w1 0 40⟩
def Loc.handle (l : Loc) : Nat := l.addr / 2 ^ 40
def Loc.offset (l : Loc) : Nat := l.addr % 2 ^ 40

/-- Reserved bits set in a REF slot; SEL without SLOTTED counts as one (log entry 10). -/
def refRsv (w0 : Nat) : Bool := bitsOf w0 13 19 != 0 || (bitOf w0 10 && !bitOf w0 9)

def placeOf (s : Slot) : Place := ⟨rawLoc s.1 s.2, bitOf s.1 8, bitOf s.1 9, bitOf s.1 10, bitsOf s.2 40 24⟩

/-- The value of a numeric slot, and whether it sets a reserved bit. -/
def numSlot (ind : Bool) (s : Slot) : Option (Scalar × Bool) :=
  if s.1 % 16 = 1 then some (.imm s.2, s.1 / 16 != 0)
  else if s.1 % 16 = 3 && ind then
    let bits := 8 * 2 ^ bitsOf s.1 4 2
    some (.ind bits (rawLoc s.1 s.2), bitsOf s.1 6 26 != 0 || bitsOf s.2 40 24 != 0 || bitsOf s.2 0 40 % (bits / 8) != 0)
  else none

/-- An operand read from the front of the slots: the operand, whether a reserved bit or code is set, the slots left. -/
def parseOpnd (k : OpdKind) (ss : List Slot) : Option (Opnd × Bool × List Slot) :=
  match k, ss with
  | _, [] => none
  | .num _ _ ind, s :: rest => (numSlot ind s).map fun v => (.num v.1, v.2, rest)
  | .handle null _ _, s :: rest =>
    if s.1 % 16 = 2 && !bitOf s.1 12 then
      some (.ref ⟨rawLoc s.1 s.2, bitOf s.1 8, bitOf s.1 9, bitOf s.1 10, bitsOf s.2 40 24, none⟩,
        refRsv s.1 || bitOf s.1 11, rest)
    else if s.1 % 16 = 0 && null then some (.null, s.1 != 0 || s.2 != 0, rest)
    else none
  | .tensor null _ wr, s :: rest =>
    if s.1 % 16 = 2 && bitOf s.1 12 && (!wr || bitOf s.1 8) then
      match rest with
      | [] => none
      | x :: rest =>
        let stats := bitOf x.1 46
        let policy := bitOf s.1 11
        let subs := rest.take (if policy then 4 else 0)
        let customs := (rest.drop subs.length).take (if stats then 3 else 0)
        let rest := (rest.drop subs.length).drop customs.length
        let isRef := fun (t : Slot) => t.1 % 16 = 2 && !bitOf t.1 12
        let custom := customs.filterMap (numSlot true)
        if subs.length != (if policy then 4 else 0) || custom.length != (if stats then 3 else 0) then none
        else
          let mk := fun (m : Option Managed) (bad : Bool) =>
            some (Opnd.ref ⟨rawLoc s.1 s.2, bitOf s.1 8, bitOf s.1 9, bitOf s.1 10, bitsOf s.2 40 24,
              some { fmt := bitsOf s.1 4 4, id := bitsOf x.1 0 32, layer := bitsOf x.1 32 8, pass := bitsOf x.1 40 2,
                     role := bitsOf x.1 42 4, stats := stats, sr := bitOf x.1 47, lead := bitOf x.1 48,
                     budget := bitsOf x.1 49 7, dflt := bitsOf x.1 56 4, elements := bitsOf x.2 0 36,
                     inner := bitsOf x.2 36 28, managed := m, custom := custom.map (·.1) }⟩,
              bad || refRsv s.1 || bitsOf x.1 60 4 != 0 || custom.any (·.2), rest)
          match subs with
          | [d, t, p, c] =>
            if isRef d && isRef t && isRef p && c.1 % 16 = 1 then
              mk (some ⟨placeOf d, placeOf t, placeOf p, c.2⟩)
                (refRsv d.1 || refRsv t.1 || refRsv p.1 || c.1 / 16 != 0 || bitsOf s.1 4 4 != 0)
            else none
          | _ => mk none false
    else if s.1 % 16 = 0 && null then some (.null, s.1 != 0 || s.2 != 0, rest)
    else none

/-- All operands of an op: none where kinds or count do not match its table (code 8 of R317). -/
def parseOpnds : List OpdKind → List Slot → Option (List Opnd × Bool)
  | [], [] => some ([], false)
  | [], _ :: _ => none
  | k :: ks, ss =>
    match parseOpnd k ss with
    | none => none
    | some (o, bad, rest) => (parseOpnds ks rest).map fun p => (o :: p.1, bad || p.2)

/-! ## Values in range (code 9 of R317, R316) -/

def Scalar.within (lo hi : Nat) : Scalar → Bool
  | .imm v => decide (lo ≤ v) && decide (v ≤ hi)
  | .ind _ _ => true

/-- The tensor's fields hold no reserved code and lie in range (R96, R141, R150, R157, R309). -/
def Tensor.ok (t : Tensor) : Bool :=
  decide (t.fmt ≤ 10) && decide (t.role ≤ 5) && decide (t.budget ≤ 64) && decide (t.dflt ≤ 6) &&
  decide (1 ≤ t.elements) && decide (t.elements ≤ 2 ^ 35) && t.inner % 32 = 0 && t.inner != 0 &&
  (t.managed.isNone || t.custom.all (Scalar.within 0 0xFFFF))

def Opnd.ok : OpdKind → Opnd → Bool
  | .num lo hi _, .num v => v.within lo hi
  | _, .ref ⟨_, _, _, _, _, some t⟩ => t.ok
  | _, _ => true

/-- The value of numeric operand `i`, unless it is still to be read. -/
def numAt (os : List Opnd) (i : Nat) : Option Nat :=
  match nth os .null i with
  | .num (.imm v) => some v
  | _ => none
def holds (o : Option Nat) (p : Nat → Bool) : Bool :=
  match o with
  | some v => p v
  | none => true
def isNull (os : List Opnd) (i : Nat) : Bool := nth os .null i == .null
def tensorAt (os : List Opnd) (i : Nat) : Option Tensor :=
  match nth os .null i with
  | .ref r => r.tensor
  | _ => none

/-- ELEMENTS of tensor `i` is the product of two dimensions (log entry 11). -/
def shaped (os : List Opnd) (i a b : Nat) : Bool :=
  holds (numAt os a) fun x => holds (numAt os b) fun y =>
    match tensorAt os i with
    | some t => t.elements = x * y
    | none => true

/-- The rules between an op's numbers that its own table gives, with every reserved code (R7). -/
def valuesOk (cls code accInit : Nat) (os : List Opnd) : Bool :=
  let n := fun i p => holds (numAt os i) p
  match cls, code with
  | 0, 0 => decide (accInit ≤ 2) && n 7 (fun k => k % 32 = 0)
  | 2, 0 =>
    let mode := (numAt os 0).getD 0
    let role := (numAt os 5).getD 0
    let copy := mode = 0
    n 6 (fun p => if role = 0 then p = 0xFFFF else decide (p ≤ 1023)) &&
    n 7 (fun d => if role = 0 then d = 0 else d != 0) &&
    n 4 (fun c => if role = 0 then c = 0 else c != 0 && c % 4096 = 0) &&
    (if copy then
      n 3 (fun b => b % 64 = 0) && isNull os 8 && isNull os 9 && n 10 (· = 0) && n 11 (· = 0) && n 12 (· = 0) && n 13 (· = 0)
    else
      role = 0 && !isNull os 8 && !isNull os 9 && n 11 (fun c => c != 0 && c &&& (c - 1) = 0) && n 12 (· != 0) &&
      n 13 (· != 0))
  | 2, 1 => n 2 (· % 64 = 0) && n 3 (· % 64 = 0) && n 2 (fun b => n 3 fun d => decide (d + b ≤ 131072))
  | 3, 0 =>
    n 5 (fun r => n 6 fun m => decide (r ≤ m)) && n 7 (fun g => n 8 fun m => decide (g ≤ m)) &&
    n 10 (fun d => n 11 fun f => d != 2 || f = 0) && (numAt os 10 = some 2) = !isNull os 14
  | 5, _ => n 8 (fun st => n 10 fun a => if st = 2 then decide (1 ≤ a) else a = 0)
  | 7, 1 => n 1 (· != 2)
  | 7, 4 => n 1 (fun k => if k = 0xFFFF then n 2 (· = 1) else decide (k ≤ 1023))
  | _, _ => true

/-- The shapes, formats and leads that R312 and R422 ask of tensors that go together; code 11 of R317 (log entry 33). -/
def shapesOk (cls code accInit : Nat) (os : List Opnd) : Bool :=
  let fmt := fun i p => match tensorAt os i with
    | some t => p t
    | none => true
  let elems := fun i => ((tensorAt os i).map (·.elements)).getD 0
  match cls, code with
  | 0, 0 =>
    let inner := fun i => fmt i fun (t : Tensor) => holds (numAt os 7) fun k => t.inner = k
    let lead := fun i => ((tensorAt os i).map (·.lead)).getD false
    shaped os 1 5 7 && shaped os 2 6 7 && shaped os 3 5 6 && shaped os 4 5 6 && inner 1 && inner 2 && lead 1 != lead 2 &&
    (accInit != 1 || fmt 3 (fun t => t.fmt = 10)) && (accInit != 2 || fmt 4 (fun t => t.fmt = 10))
  | 1, 0 => elems 1 = elems 2
  | 5, k =>
    let plain := fun (t : Tensor) => t.fmt = 9 || t.fmt = 10
    fmt 0 plain && fmt 1 plain &&
    (let e := if k = 1 then elems 1 else elems 0
     let r := (numAt os 4).getD 1
     let i := (numAt os 5).getD 0
     let b := ceilDiv e 32
     let mine := min e (32 * ((i + 1) * b / r)) - min e (32 * (i * b / r))
     if k = 0 then elems 1 = mine else if k = 1 then elems 0 = mine else elems 1 = e)
  | _, _ => true

/-- Every value of an op's operands is in range (code 9 of R317). -/
def opndsOk (cls code accInit : Nat) (os : List Opnd) : Bool :=
  match opTable cls code with
  | none => false
  | some ks => (ks.zip os).all (fun p => p.2.ok p.1) && valuesOk cls code accInit os

/-! ## Extents (R315) -/

def Tensor.blocks (t : Tensor) : Nat := ceilDiv t.elements 32
/-- Patches of a tensor (R135). -/
def Tensor.patches (t : Tensor) : Nat := ceilDiv t.elements 4096

/-- Bytes of a tensor's region (R96 to R98, R137). -/
def Tensor.extent (t : Tensor) : Nat :=
  let b := t.blocks
  if t.managed.isSome then 24 * b
  else
    match t.fmt with
    | 0 => 18 * b
    | 1 => 14 * b
    | 2 => 18 * b
    | 3 => 14 * b
    | 4 => 17 * b
    | 5 => 33 * b
    | 6 => 33 * b
    | 7 => t.elements
    | 8 => t.elements
    | 9 => 2 * t.elements
    | _ => 4 * t.elements

/-- Bytes of `n` elements in a wire format (R422): format code, elements, whole blocks. -/
def payloadSize (fmt n : Nat) : Nat :=
  let b := ceilDiv n 32
  if fmt = 0 then 18 * b else if fmt = 9 then 64 * b else 33 * b

/-- Blocks of shard `i` of `r` (R424). -/
def shardLo (b r i : Nat) : Nat := i * b / r
def shardBlocks (b r i : Nat) : Nat := shardLo b r (i + 1) - shardLo b r i
/-- Blocks of the largest shard. -/
def shardMax (b r : Nat) : Nat := (List.range r).foldl (fun m i => max m (shardBlocks b r i)) 0

/-- The elements that a collective works on: SRC's for a reducing op; for ALL_GATHER, DST's (R422). -/
def collElements (code : Nat) (os : List Opnd) : Nat :=
  match tensorAt os (if code = 1 then 1 else 0) with
  | some t => t.elements
  | none => 0

/-- Bytes of a SCORE result entry without rule lists (R236 to R238). -/
def scoreEntry (dest form : Nat) : Nat := if dest = 2 then 8 else if form = 1 then 32 else 64

/-- Bytes that handle operand `i` spans. A size still to be read at dispatch, an image and a program count as one byte
(log entry 12). -/
def handleExtent (cls code : Nat) (os : List Opnd) (i : Nat) : Nat :=
  let n := fun j => (numAt os j).getD 0
  let sized := fun j v => if (numAt os j).isSome then v else 1
  match cls, code, i with
  | 0, 1, 1 => sized 2 (8 * n 2)
  | 0, 1, 5 => 8 * n 4 * n 3
  | 0, 1, 6 => 4 * n 3
  | 0, 1, 7 => 8 * n 8
  | 2, 0, 1 =>
    if n 0 != 0 then 64 + 64 * (n 10 + 1) * n 11 else if n 5 = 2 then n 4 * n 7 else sized 3 (n 3)
  | 2, 0, 2 => if n 0 = 0 && n 5 = 1 then n 4 * n 7 else sized 3 (n 3)
  | 2, 0, 8 => 64 + 8 * n 13
  | 2, 0, 9 => 64 + 2 * n 12
  | 2, 1, 1 => n 2
  | 3, 0, 1 => 64 + 64 * (n 3 + 1) * n 2
  | 3, 0, 12 => 64 + scoreEntry (n 10) (n 11) * n 13
  | 3, 0, 14 => 16
  | 4, 0, 1 => 64 + 64 * (n 3 + 1) * n 2
  | 4, 0, 5 => 2 * (n 6 + 1)
  | 4, 0, 8 => 64 + 64 * (n 3 + 1) * n 2
  | 4, 0, 9 => 64 + 16 * n 10
  | 4, 0, 12 => 64 + 8 * n 2
  | 5, _, 3 => 8 * n 4
  | 5, _, 11 => n 10 * n 4 * payloadSize (n 2) (32 * shardMax (ceilDiv (collElements code os) 32) (n 4))
  | 5, _, 12 => 33 * ceilDiv (collElements code os) 32
  | 5, _, 13 => 33 * ceilDiv (collElements code os) 32
  | 5, _, 14 => (n 4 - 1) * payloadSize (n 2) (32 * shardMax (ceilDiv (collElements code os) 32) (n 4))
  | 6, 1, 0 => 32 * n 1
  | 6, 1, 5 => 64
  | 7, 3, 1 => 64 * n 2
  | _, _, _ => 1

/-! ## Relocation (R314, R315) -/

/-- The entry of (context, handle); handle 0 names no region (R308). -/
def State.reloc? (s : State) (c h : Nat) : Option Reloc :=
  if h = 0 then none else s.fe.relocs.find? fun r => r.ctx = c && r.handle = h

/-- A range that the entry covers with the permissions asked, outside the reserved range (R276, R315). -/
def State.relocOk (s : State) (r : Reloc) (off n : Nat) (rd wr : Bool) : Bool :=
  decide (off + n ≤ r.len) && (!rd || bitOf r.perm 0) && (!wr || bitOf r.perm 1) &&
  (r.host || decide (r.base + off + n ≤ s.reserve))

/-- A place relocated: none where the check fails. -/
def State.relocate (s : State) (c : Nat) (l : Loc) (slotted : Bool) (stride n : Nat) (rd wr : Bool) : Option Loc :=
  match s.reloc? c l.handle with
  | none => none
  | some r =>
    if s.relocOk r l.offset n rd wr && (!slotted || s.relocOk r (l.offset + 4096 * stride) n rd wr) then
      some ⟨r.host, r.base + l.offset⟩
    else none

def State.relocScalar (s : State) (c : Nat) : Scalar → Option Scalar
  | .imm v => some (.imm v)
  | .ind bits l => (s.relocate c l false 0 (bits / 8) true false).map (.ind bits)

def State.relocPlace (s : State) (c : Nat) (p : Place) (n : Nat) (rd : Bool) : Option Place :=
  (s.relocate c p.loc p.slotted p.stride n rd p.write).map fun l => { p with loc := l }

def allSome {α : Type} : List (Option α) → Option (List α)
  | [] => some []
  | none :: _ => none
  | some a :: rest => (allSome rest).map (a :: ·)

/-- One operand relocated: read permission for what the op reads, write permission for what its slot marks WRITE (R315).
C of a MATMUL is read under ACC_INIT 1 only (R312). -/
def State.relocOpnd (s : State) (c cls code accInit : Nat) (os : List Opnd) (i : Nat) (k : OpdKind) (o : Opnd) : Option Opnd :=
  match o with
  | .null => some .null
  | .num v => (s.relocScalar c v).map .num
  | .ref r =>
    let flags := match k with
      | .num _ _ _ => (false, false)
      | .handle _ rd wr => (rd, wr)
      | .tensor _ rd wr => (rd || (cls = 0 && code = 0 && i = 3 && accInit = 1), wr)
    match r.tensor with
    | none =>
      (s.relocate c r.loc r.slotted r.stride (handleExtent cls code os i) flags.1 r.write).map
        fun l => .ref { r with loc := l }
    | some t =>
      match s.relocate c r.loc r.slotted r.stride t.extent flags.1 r.write,
            (if t.managed.isSome then allSome (t.custom.map (s.relocScalar c)) else some t.custom) with
      | some l, some cu =>
        match t.managed with
        | none => some (.ref { r with loc := l, tensor := some { t with custom := cu } })
        | some m =>
          match s.relocPlace c m.dec (64 + 16 * t.patches) true,
                s.relocPlace c m.tags (32 * t.patches) flags.1, s.relocPlace c m.pool (8192 * m.poolCap) flags.1 with
          | some d, some tg, some p =>
            some (.ref { r with loc := l, tensor := some { t with custom := cu, managed := some ⟨d, tg, p, m.poolCap⟩ } })
          | _, _, _ => none
      | _, _ => none

/-- Every operand of an op relocated: none where check 10 of R317 fails. -/
def State.relocAll (s : State) (c cls code accInit : Nat) (os : List Opnd) : Option (List Opnd) :=
  match opTable cls code with
  | none => none
  | some ks =>
    allSome ((List.range os.length).map fun i =>
      s.relocOpnd c cls code accInit os i (nth ks (.num 0 0 false) i) (nth os .null i))

/-! ## Dispatch (R290, R316, R320) -/

/-- The slot that SEL names (R290). -/
def State.slotOf (s : State) (next : Bool) : Nat :=
  let c := s.rd Reg.SC_STATUS.COMMIT_SLOT
  if next then 1 - c else c

def Place.resolve (p : Place) (s : State) : Place :=
  if p.slotted then { p with loc := p.loc.plus (4096 * p.stride * s.slotOf p.next), slotted := false } else p

def Scalar.resolve (v : Scalar) (s : State) : Scalar :=
  match v with
  | .imm n => .imm n
  | .ind bits l => .imm (s.readNat l (bits / 8))

def Managed.resolve (m : Managed) (s : State) : Managed :=
  { m with dec := m.dec.resolve s, tags := m.tags.resolve s, pool := m.pool.resolve s }

def Opnd.resolve (o : Opnd) (s : State) : Opnd :=
  match o with
  | .null => .null
  | .num v => .num (v.resolve s)
  | .ref r =>
    let l := if r.slotted then r.loc.plus (4096 * r.stride * s.slotOf r.next) else r.loc
    .ref { r with loc := l, slotted := false, tensor := r.tensor.map fun t =>
      { t with custom := if t.managed.isSome then t.custom.map (·.resolve s) else t.custom,
               managed := t.managed.map (·.resolve s) } }

/-- Some operand is SLOTTED with SEL NEXT (R382). -/
def Opnd.usesNext : Opnd → Bool
  | .ref r => (r.slotted && r.next) || (match r.tensor with
    | some ⟨_, _, _, _, _, _, _, _, _, _, _, _, some m, _⟩ =>
      (m.dec.slotted && m.dec.next) || (m.tags.slotted && m.tags.next) || (m.pool.slotted && m.pool.next)
    | _ => false)
  | _ => false

def Scalar.indLoc : Scalar → List (Loc × Nat)
  | .imm _ => []
  | .ind bits l => [(l, bits / 8)]
/-- The places that INDIRECT slots are read from. -/
def Opnd.indLocs : Opnd → List (Loc × Nat)
  | .null => []
  | .num v => v.indLoc
  | .ref r => match r.tensor with
    | some t => if t.managed.isSome then t.custom.flatMap Scalar.indLoc else []
    | none => []

/-! ## Accesses of an op (R276, R281, R282, R340, R480) -/

/-- A range that an op reads or writes. -/
structure Acc where
  write : Bool
  loc : Loc
  len : Nat
  deriving DecidableEq, Repr

/-- The NACK codes of R420. -/
def Nack.PEER_DOWN := 1
def Nack.DOMAIN_OFF := 2
def Nack.REFUSED := 3
def Nack.HOST_ERROR := 4

/-- An op's transfer returned as a NACK (R340). -/
def State.streamNack (s : State) (k : OpKey) (code addr : Nat) : State :=
  s.opFault k Ev.STREAM_NACK 8 (s.streamIsland k none) [(1, code), (8, addr)]

/-- An op's access to device memory met a poisoned sector (R281, R282). -/
def State.opUe (s : State) (k : OpKey) (sec : Nat) : State :=
  (s.poisonRead sec).opFault k Ev.MEM_UE 6 (stackIsland (s.stackOf sec)) [(8, sec), (1, s.stackOf sec)]

/-- The LAST_DENY_SRC code of the stream engine (R488). -/
def denyStream := 1

/-- Sectors of a range that a write covers in part. -/
def partSectors (a n : Nat) : List Nat :=
  (if a % 32 = 0 && 32 ≤ n then [] else [a / 32 * 32]) ++
  (if (a + n) % 32 = 0 then [] else [(a + n) / 32 * 32])

/-- What one access of an op does when it is refused: the state after its fault; none where the access is admitted. -/
def State.refuse (s : State) (k : OpKey) (a : Acc) : Option State :=
  if a.len = 0 then none
  else if a.loc.host then
    if s.windowAdmits a.loc.addr a.len a.write then none
    else some ((s.deny a.loc.addr denyStream).streamNack k Nack.REFUSED a.loc.addr)
  else if s.reserve < a.loc.addr + a.len then
    some (s.opFault k Ev.MEM_RANGE 6 (stackIsland (s.stackOf a.loc.addr)) [(8, a.loc.addr)])
  else if a.write then
    match (partSectors a.loc.addr a.len).find? s.poison.contains with
    | some p => some ((s.ueAddr p).opFault k Ev.MEM_UE 6 (stackIsland (s.stackOf p)) [(8, p), (1, s.stackOf p)])
    | none => none
  else
    match s.poisonIn a.loc.addr a.len with
    | some p => some (s.opUe k p)
    | none => none

/-- The first refusal among an op's accesses. -/
def State.refused (s : State) (k : OpKey) : List Acc → Option State
  | [] => none
  | a :: rest =>
    match s.refuse k a with
    | some t => some t
    | none => s.refused k rest

/-- A sector of device memory that an access reads: every one of a read, and those that a write covers in part (R282). -/
def Acc.readsSector (a : Acc) (sec : Nat) : Bool :=
  !a.loc.host && decide (0 < a.len) && (if a.write then (partSectors a.loc.addr a.len).contains sec
    else decide (a.loc.addr < sec + 32) && decide (sec < a.loc.addr + a.len))

/-- The errors found in sectors that the accesses read. -/
def errsIn (accs : List Acc) (es : List MemErr) : List MemErr :=
  es.filter fun e => e.tile.isNone && accs.any fun a => a.readsSector (e.addr / 32 * 32)

/-- An op's accesses: the errors their reads find are applied, then every access is judged; on a refusal its fault,
otherwise the op's effect. -/
def State.accessing (s : State) (k : OpKey) (errs : List MemErr) (accs : List Acc) (f : State → State) : State :=
  let s := s.memErrs (errsIn accs errs)
  match s.refused k accs with
  | some t => t
  | none => f s

/-! ## What running ops write and have fetched (R330, R339, R444) -/

/-- The access an operand's table gives: read, written. -/
def OpdKind.access : OpdKind → Bool × Bool
  | .num _ _ _ => (false, false)
  | .handle _ rd wr => (rd, wr)
  | .tensor _ rd wr => (rd, wr)

def Op.locOf (o : Op) (i : Nat) : Loc := ((o.ref? i).map (·.loc)).getD ⟨false, 0⟩

/-- Bytes that handle operand `i` of an op spans. -/
def Op.extent (o : Op) (i : Nat) (r : Ref) : Nat :=
  match r.tensor with
  | some t => t.extent
  | none => handleExtent o.cls o.code o.opnds i

/-- An output ring of an op: operand, bytes of an entry, entries, and the place of the first entry. -/
structure OutRing where
  opnd : Nat
  bytes : Nat
  cap : Nat
  first : Nat
  deriving DecidableEq, Repr

/-- The output rings of an op; the scrubbed records of a PATTERN lie where their input lies (R235, R267). -/
def Op.rings (o : Op) : List OutRing :=
  let s0 := match o.work with
    | .pattern w => w.s0
    | _ => 0
  (if o.cls = Cls.FILTAS then [⟨12, scoreEntry (o.num 10) (o.num 11), o.num 13, 0⟩]
   else if o.cls = Cls.PATTERN then [⟨8, 64 * (o.num 3 + 1), o.num 2, s0⟩, ⟨9, 16, o.num 10, 0⟩, ⟨12, 8, o.num 2, 0⟩]
   else []).filter fun e => (o.ref? e.opnd).isSome

/-- Regions that an op writes as it runs: its operands with WRITE, and what a policy-managed one carries. Rings are taken entry by
entry, and a ring of which an op only moves a pointer, at its end, is not among them. -/
def Op.writeRegions (o : Op) : List (Loc × Nat) :=
  (List.range o.opnds.length).flatMap fun i =>
    match o.ref? i with
    | none => []
    | some r =>
      let pointer := ((o.cls = Cls.FILTAS || o.cls = Cls.PATTERN) && i = 1) || (o.cls = Cls.STREAM && (i = 1 || i = 8))
      if !r.write || pointer || o.rings.any (·.opnd = i) then []
      else (r.loc, o.extent i r) :: match r.tensor with
        | some ⟨_, _, _, _, _, _, _, _, _, _, e, _, some m, _⟩ =>
          let n := ceilDiv e 4096
          (if m.dec.write then [(m.dec.loc, 64 + 16 * n)] else []) ++ (if m.tags.write then [(m.tags.loc, 32 * n)] else []) ++
          (if m.pool.write then [(m.pool.loc, 8192 * m.poolCap)] else [])
        | _ => []

/-- The entries of an op's output rings that its DONE does not cover or that have been consumed (R239, R267). -/
def State.openEntries (s : State) (o : Op) : List (Loc × Nat) :=
  if o.st = .done then []
  else
    o.rings.flatMap fun e =>
      let ring := o.locOf e.opnd
      let done := s.readNat ring 8
      let tail := s.readNat (ring.plus 8) 8
      let at_ := (e.first + tail) % e.cap
      ((List.range e.cap).filter fun j => decide (done - tail ≤ (j + e.cap - at_) % e.cap)).map fun j =>
        (ring.plus (64 + e.bytes * j), e.bytes)

/-- The regions that an op which has started may leave in any state until its buffer completes or its discard is quiet. -/
def State.openRegions (s : State) (o : Op) : List (Loc × Nat) :=
  if o.st = .waiting || o.st = .staged then [] else o.writeRegions ++ s.openEntries o

/-- Every started op whose writes are not settled: of accepted buffers, and of discarded ones not yet quiet. -/
def State.openOps (s : State) : List Op := s.fe.bufs.flatMap (·.ops) ++ s.se.dropped.map (·.2)

def Loc.within (l : Loc) (r : Loc × Nat) : Bool := l.host = r.1.host && decide (r.1.addr ≤ l.addr) && decide (l.addr < r.1.addr + r.2)

/-- A byte is unspecified: an op of a buffer that has not completed may write it (R444). -/
def State.unsettled (s : State) (l : Loc) : Bool := s.openOps.any fun o => (s.openRegions o).any l.within

/-- Unspecified bytes (R4, log entry 2). -/
def freeBytes (free n : Nat) : List Nat := (List.range n).map fun i => (Config.freeWord (free + i)).toNat % 256

/-- Bytes as a reader from outside sees them: an unsettled byte is a free value. -/
def State.seen (s : State) (l : Loc) (n : Nat) : List Nat :=
  (List.range n).zipWith (fun i b => if s.unsettled (l.plus i) then (Config.freeWord (s.free + i)).toNat % 256 else b) (s.read l n)

/-- Bytes put at a place, beside every check. -/
def State.poke (s : State) (l : Loc) (bytes : List Nat) : State :=
  if l.host then { s with hostMem := s.hostMem.wrBytes l.addr bytes } else { s with hbm := s.hbm.wrBytes l.addr bytes }

/-- Regions that discarded work leaves with unspecified bytes (R330, R444, R504, log entry 19). -/
def State.scramble (s : State) (rs : List (Loc × Nat)) : State :=
  rs.foldl (fun s r => { s.poke r.1 (freeBytes s.free r.2) with free := s.free + r.2 }) s

/-- The memories as an op's fetch saw them (R339). -/
def State.fetched (s : State) (o : Op) : State := o.early.foldl (fun u e => u.poke e.1 e.2) s

/-- An op's effect on the memories as its fetch saw them: bytes fetched before a predecessor wrote them stand as they were
then (R339). What the op does not write is put back. -/
def State.asFetched (s : State) (o : Op) (f : State → State) : State :=
  if o.early.isEmpty then f s
  else
    let t := f (s.fetched o)
    o.early.foldl (fun t e => (List.range e.2.length).foldl (fun t i =>
      let l := e.1.plus i
      if o.writeRegions.any l.within then t else t.poke l (s.read l 1)) t) t

/-- The accesses of a tensor operand: its region, and what a policy-managed one carries. -/
def Ref.accs (r : Ref) (rd wr : Bool) (n : Nat) : List Acc :=
  (if rd then [⟨false, r.loc, n⟩] else []) ++ (if wr then [⟨true, r.loc, n⟩] else [])

end Sys2Proof.Machine
end

