-- ==== Sys2Proof/Machine/Flags.lean ====
section
/-! DEFINITION. Status that the block computes from its other state: the value of every register field that shows such
status, for the global registers and for a tile's, and the fitness map as bytes. -/

namespace Sys2Proof.Machine

def count {α : Type} (p : α → Bool) (l : List α) : Nat := (l.filter p).length

/-! ## Tiles, stream contexts and trees held -/

/-- The context that holds a tile (R325): the owner of its configuration, or of an op staged or running on it. -/
def Tile.holder (t : Tile) : Option Nat :=
  if t.st != .idle then some t.ctx
  else match t.running, t.deck with
    | some k, _ => some k.ctx
    | none, some k => some k.ctx
    | none, none => none

/-- held[c][d] of R325. -/
def State.held (s : State) (c d : Nat) : Nat :=
  count (fun p => tileDie p.1 = d && p.2.holder = some c) s.tiles
/-- free[d] of R325. -/
def State.freeTiles (s : State) (d : Nat) : Nat :=
  5120 - count (fun p => tileDie p.1 = d && p.2.holder.isSome) s.tiles

def Holder.isQp : Holder → Bool
  | .qp _ _ => true
  | _ => false

/-- Stream contexts of an execution context, queue pairs apart (R335). -/
def State.streamsHeld (s : State) (c : Nat) : Nat := count (fun h => h.ctx = c && !h.holder.isQp) s.se.holds

/-- Capacity in stream contexts of a unit: compute dies 0 to 15, hubs 16 to 18 (R14, R334, R335). -/
def State.unitCap (s : State) (u : Nat) : Nat :=
  if u < 16 then (if s.dieFenced u then 0 else 8192) else if u = 16 then 43690 else 43691
def State.unitFree (s : State) (u : Nat) : Nat := s.unitCap u - count (fun h => h.unit = u) s.se.holds

/-- Group trees in use on a die, and keyed trees in use (R354). -/
def State.treesOn (s : State) (d : Nat) : Nat := count (fun t => t.die = d) s.se.trees
def State.fabricTrees (s : State) : Nat := ((s.se.trees.filter (·.keyed)).map fun t => (t.key.ctx, t.key.seq, t.huddle)).eraseDups.length

/-- Transfers of an op that have been issued and have not landed (R338). -/
def Op.outstanding (o : Op) : Nat :=
  o.fetch.out.length + match o.work with
  | .move w => w.out.length
  | _ => 0
def State.outstanding (s : State) (c : Nat) : Nat :=
  (s.allOps ++ s.se.dropped).foldl (fun m p => if p.1.ctx = c then max m p.2.outstanding else m) 0

/-- No engine holds a staged or running op of the context (R440). -/
def State.quietCtx (s : State) (c : Nat) : Bool :=
  !(s.allOps.any fun p => p.1.ctx = c && (p.2.st = .staged || p.2.st = .running || p.2.st = .executed)) &&
  (s.ctx c).discard.isNone

/-! ## Policy status (R173, R176) -/

/-- The dies that hold tiles of duty 2. -/
def State.policyDies (s : State) : List Nat :=
  (List.range 16).filter fun d => !s.dieFenced d && s.tiles.any fun p => tileDie p.1 = d && p.2.duty = 2

def State.stagedGen (s : State) (t : Tile) : Option Nat :=
  t.staged.bind fun c => (mapGet? s.configs c).map (·.gen)

/-- Every policy tile of every such die holds a stage image of generation PENDING_GEN. -/
def State.allStaged (s : State) : Bool :=
  s.tiles.all (fun p => p.2.duty != 2 || s.dieFenced (tileDie p.1) ||
    s.stagedGen p.2 = some (s.rd Reg.POLICY_CTRL.PENDING_GEN)) && !s.policyDies.isEmpty
def State.flipPending (s : State) : Bool :=
  s.rd Reg.POLICY_CTRL.PENDING_GEN != s.rd Reg.POLICY_CTRL.ACTIVE_GEN

/-! ## Link status -/

def State.dims (s : State) : Nat × Nat × Nat :=
  (s.rd Reg.LINK_DOMAIN.DX + 1, s.rd Reg.LINK_DOMAIN.DY + 1, s.rd Reg.LINK_DOMAIN.DZ + 1)
/-- This module's index, `x + 16y + 256z` (R404). -/
def State.myIndex (s : State) : Nat := s.rd Reg.LINK_DOMAIN.X + 16 * s.rd Reg.LINK_DOMAIN.Y + 256 * s.rd Reg.LINK_DOMAIN.Z

def State.memberBits (s : State) (k : Nat) : Nat :=
  sumNat ((s.dom.members.filter fun m => m / 64 = k).eraseDups.map fun m => 2 ^ (m % 64))

def State.running (s : State) (cls : Nat) : Nat :=
  count (fun p => p.2.cls = cls && (p.2.st = .running || p.2.st = .executed)) s.allOps

/-- Descriptors published and not checked; more of them than the ring holds stop the fetch (R299). -/
def State.ringCount (s : State) : Nat := (s.rd Reg.SUBQ_TAIL.TAIL + 2 ^ 32 - s.rd Reg.SUBQ_HEAD.HEAD) % 2 ^ 32
def State.ringOver (s : State) : Bool := decide (2 ^ s.fe.sizeLog2 < s.ringCount)

def Op.isHolding (o : Op) : Bool := o.st = .staged || o.st = .running || o.st = .executed

/-- A commit sequence has switched the slot and its resolution is not over (R163, R176, log entry 124). -/
def State.resolving (s : State) : Bool :=
  s.sc.half && match s.sc.flip with
    | some f => !f.skip && !f.queued
    | none => false

/-- The value a read of a global register field returns (R32): computed where the field shows other state, otherwise
what it holds. -/
def State.view (s : State) (f : Fld) : Nat :=
  let off := f.off
  if 0x60000 ≤ off && off < 0x80000 then
    let c := (off - 0x60000) / 32
    let x := s.ctx c
    match off % 32, f.lo with
    | 0, 0 => x.st.code
    | 0, 3 => b2n x.rt
    | 0, 4 => x.rank
    | 0, _ => x.lastErr
    | 8, 0 => x.share
    | 8, 16 => x.streams
    | 8, _ => x.outstanding
    | 16, 0 => (List.range 16).foldl (fun m d => max m (s.held c d)) 0
    | 16, 16 => s.streamsHeld c
    | 16, _ => s.outstanding c
    | 24, 0 => x.limitMs
    | _, _ => s.ctxInFlight c
  else if 0x80100 ≤ off && off < 0x80198 then
    let u := (off - 0x80100) / 8
    if f.lo = 0 then (if s.valid then s.unitFree u else 0) else s.treesOn u
  else if bar2 ≤ off && off % 4096 = 0x10 && f.lo < 8 then
    let c := (off - bar2) / 4096
    if f.lo = 0 then (s.ctx c).st.code else if f.lo = 3 then b2n (s.quietCtx c) else (s.ctx c).lastErr
  else if 0x801000 ≤ off && off < 0x801200 then s.memberBits ((off - 0x801000) / 8)
  else if f.key = Reg.FE_STATUS.FETCHING.key then
    b2n (s.fe.on && s.rd Reg.SUBQ_HEAD.HEAD != s.rd Reg.SUBQ_TAIL.TAIL && !s.ringOver)
  else if f.key = Reg.FE_INFLIGHT.OPS.key then s.inFlight
  else if f.key = Reg.FE_INFLIGHT.CONTEXTS.key then count (fun c => (s.ctx c).st != .free) (List.range 4096)
  else if f.key = Reg.FE_INFLIGHT.RT.key then count (fun c => (s.ctx c).rt && (s.ctx c).st != .free) (List.range 4096)
  else if f.key = Reg.SE_STATUS.FABRIC_TREES.key then s.fabricTrees
  else if f.key = Reg.POLICY_STATUS.FLIP_PENDING.key then b2n s.flipPending
  else if f.key = Reg.POLICY_STATUS.STAGED.key then b2n s.allStaged
  else if f.key = Reg.POLICY_STATUS.RESOLVING.key then b2n s.resolving
  else if f.key = Reg.FILTAS_SCORE_STATUS.STALLED.key then b2n (s.se.streams.any (·.stall.isSome))
  else if f.key = Reg.FILTAS_SCORE_STATUS.STREAMS.key then count (fun p => p.2.cls = Cls.FILTAS && p.2.isHolding) s.allOps
  else if f.key = Reg.FILTAS_PAT_STATUS.STALLED.key then
    b2n (s.allOps.any fun p => match p.2.work with
      | .pattern w => w.stall.isSome
      | _ => false)
  else if f.key = Reg.FILTAS_PAT_STATUS.STREAMS.key then count (fun p => p.2.cls = Cls.PATTERN && p.2.isHolding) s.allOps
  else if f.key = Reg.LINK_STATUS.MEMBERS.key then s.dom.members.length
  else if f.key = Reg.LINK_EPOCH.EPOCH.key then s.dom.epoch
  else if f.key = Reg.COLL_STATUS.RUNNING.key then s.running Cls.COLLECTIVE
  else if 0x800100 ≤ off && off < 0x800220 && off % 16 = 0 && f.lo = 3 then
    b2n (bitOf (s.rd Reg.REF_GRANT.LINK) ((off - 0x800100) / 16))
  else if 0xC00000 ≤ off && off < 0xC00060 && off % 16 = 0 && (f.lo = 2 || f.lo = 32) then
    let p := (off - 0xC00000) / 16
    if f.lo = 2 then b2n (bitOf (s.rd Reg.REF_GRANT.ETH) p) else count (fun q => q.port = p) s.qps
  else if f.key = Reg.HI_STATUS.ALARM_WAIT.key then b2n (s.ev.alarms.any fun a => !a.ring)
  else if f.key = Reg.FLT_ALARM_Q.RING_WAIT.key then count (fun a => !a.ring) s.ev.alarms
  else if f.key = Reg.FLT_ALARM_Q.HALL_WAIT.key then count (fun a => !a.hall) s.ev.alarms
  else if f.key = Reg.MB_STATUS.INFLIGHT.key then s.cap.reqs.length + s.cap.resps.length
  else s.rd f

/-- A register's 64 bits as a read returns them (R29, R32). -/
def State.regWord (s : State) (off : Nat) : Nat :=
  sumNat ((fieldsAt regRows off).map fun f => s.view f * 2 ^ f.lo)

/-! ## Tile registers (R57, R144, R207, R243, R270) -/

/-- Slots of one entry at a bank width (R179, R180). -/
def Tile.span (t : Tile) : Nat := 2 ^ t.rd TReg.TMA_CFG.WIDTH

/-- The entries of a bank: those whose first slot is listed. -/
def Tile.live (t : Tile) (staged : Bool) : Nat :=
  count (fun p => p.1 % t.span = 0 && p.2.valid && ((p.2.gen = t.rd TReg.TMA_GEN.ACTIVE) != staged)) t.tma

/-- Lanes of a pattern op that its tiles show as busy. -/
def State.lanesBusy (s : State) (t : Tile) : Nat :=
  match t.running with
  | none => 0
  | some k => match (s.op? k).map Op.work with
    | some (Work.pattern w) => count (fun l => l.st != .free) w.lanes
    | _ => 0

/-- A tile runs an op whose blocks pass through its converter: its lanes hold a block from the op's start to its end (log
entry 121). -/
def State.converting (s : State) (t : Tile) : Bool :=
  match t.running.bind s.op? with
  | some o => o.st = .running && (o.cls = Cls.CONVERT || (o.cls = Cls.TENSOR && o.code != 1))
  | none => false

/-- The value a window read of a tile register field returns: `p` is the physical tile, `x` its state. -/
def State.tileView (s : State) (p : Nat) (x : Tile) (f : Fld) : Nat :=
  if f.key = TReg.TILE_IDENT.LOGICAL.key then s.logical p
  else if f.key = TReg.TILE_IDENT.PHYSICAL.key then p
  else if f.key = TReg.TILE_IDENT.ISLAND.key then islandId (tileDie p) (5 * (tileRow p / 16) + min (tileCol p / 16) 4)
  else if f.key = TReg.TILE_DUTY.DUTY.key then x.duty
  else if f.key = TReg.TILE_DUTY.STATE.key then x.st.code
  else if f.key = TReg.TILE_DUTY.CTX.key then (if x.st = .idle then 0 else x.ctx)
  else if f.key = TReg.CONV_STATUS.REC_DEPTH.key then x.recs.length
  else if f.key = TReg.CONV_STATUS.BUSY.key then b2n (!x.emit.isEmpty || s.converting x)
  else if f.key = TReg.TMA_STATUS.EDIT_BUSY.key then b2n !x.edits.isEmpty
  else if f.key = TReg.TMA_STATUS.LIVE.key then x.live false
  else if f.key = TReg.TMA_STATUS.STAGED.key then x.live true
  else if f.key = TReg.PAT_TILE.LANES_BUSY.key then s.lanesBusy x
  else x.rd f

/-- A tile register's 64 bits. -/
def State.tileWord (s : State) (p : Nat) (x : Tile) (off : Nat) : Nat :=
  sumNat ((fieldsAt tileRegRows off).map fun f => s.tileView p x f * 2 ^ f.lo)

/-! ## The fitness map (R70, R71) -/

def FitMap.rowEntry (m : FitMap) (d r : Nat) : Nat :=
  if m.fencedDie = some d then 0xFFFF
  else
    let half := fun b =>
      let failed := m.benchFailed.contains (d, r, b)
      let serves := match m.serves.find? fun e => e.1 = d && e.2.1 = r && e.2.2.1 = b with
        | some e => if failed then 0x7F else e.2.2.2
        | none => 0x7F
      serves + 128 * b2n failed
    half 0 + 256 * half 1

/-- The bytes of the map with its CRC field as given. -/
def FitMap.rawBytes (m : FitMap) (crc : Nat) : List Nat :=
  leBytes 2 1 ++ leBytes 2 0x900 ++ leBytes 4 m.bootSeq ++
  [b2n m.unfit + 2 * b2n m.fencedDie.isSome + 4 * b2n m.fencedStack.isSome, m.fencedDie.getD 255, m.fencedStack.getD 255, 0] ++
  leBytes 4 (if m.fencedDie.isSome then 76800 else 81920) ++ leBytes 4 (if m.fencedStack.isSome then 704 else 768) ++
  leBytes 4 crc ++ List.replicate 40 0 ++
  (List.range 16).map (fun d => b2n (m.fencedDie = some d)) ++ List.replicate 48 0 ++
  (List.range 16).flatMap (fun d => (List.range 64).flatMap fun r => leBytes 2 (m.rowEntry d r)) ++
  (List.range 12).map (fun k => b2n (m.fencedStack = some k)) ++ List.replicate 20 0 ++
  m.links.take 18 ++ m.eths.take 6 ++ List.replicate 72 0

/-- The 2,304 bytes of the map. -/
def FitMap.bytes (m : FitMap) : List Nat := m.rawBytes (crc32 (m.rawBytes 0))

end Sys2Proof.Machine
end

