-- ==== Sys2Proof/Machine/Regs.lean ====
section
/-! DEFINITION. Register writes: widths, types, locks and sources, once for every register (R28 to R42, R478). -/

namespace Sys2Proof.Machine

/-- The BAR offset that a write addresses: a 4-byte write to an upper half stands 4 above its register (R41). -/
def Wr.place (w : Wr) (off : Nat) : Nat := off % bar2 + if !w.wide && w.hi then 4 else 0
/-- The value as written, which a lock violation reports: 8 bytes, or the 4 bytes of a 4-byte write (R38, log entry 27). -/
def Wr.dropped (w : Wr) : Nat := if w.wide then w.data % 2 ^ 64 else w.data % 2 ^ 32

/-- The written bits in the place they take in the register (R30). -/
def Wr.value (w : Wr) : Nat := if w.wide then w.data % 2 ^ 64 else if w.hi then (w.data % 2 ^ 32) * 2 ^ 32 else w.data % 2 ^ 32

/-- The write covers a whole field. -/
def Wr.covers (w : Wr) (f : Fld) : Bool := w.wide || (if w.hi then decide (32 ≤ f.lo) else decide (f.lo + f.w ≤ 32))
/-- A 4-byte write meets a field that spans both halves. -/
def Wr.spans (w : Wr) (f : Fld) : Bool := !w.wide && decide (f.lo < 32) && decide (32 < f.lo + f.w)
def Wr.field (w : Wr) (f : Fld) : Nat := bitsOf w.value f.lo f.w
def Wr.sameBits (w : Wr) (f : Fld) : Nat := bitsOf w.same f.lo f.w
/-- The write starts the action of an SC field. -/
def Wr.starts (w : Wr) (f : Fld) : Bool := w.covers f && w.field f != 0

/-- EVQ_CTRL's SIZE_LOG2 and ALARM_RESV after a write (R458). -/
def State.evqAfter (s : State) (w : Wr) : Nat × Nat :=
  let n0 := s.rd Reg.EVQ_CTRL.SIZE_LOG2
  let r0 := s.rd Reg.EVQ_CTRL.ALARM_RESV
  let nw := if w.covers Reg.EVQ_CTRL.SIZE_LOG2 then w.field Reg.EVQ_CTRL.SIZE_LOG2 else n0
  let rw := if w.covers Reg.EVQ_CTRL.ALARM_RESV then w.field Reg.EVQ_CTRL.ALARM_RESV else r0
  let fits := fun n r => decide (1 ≤ r) && decide (r ≤ 64) && decide (2 * r < 2 ^ n)
  let n1 := if 6 ≤ nw && nw ≤ 20 then nw else n0
  let r1 := if fits n1 rw then rw else r0
  if 2 * r1 < 2 ^ n1 then (n1, r1) else (n0, if fits n0 rw then rw else r0)

/-- A written value is a reserved code of the field as things stand (R7, R528, R489). -/
def State.reservedCode (s : State) (w : Wr) (f : Fld) : Bool :=
  let v := w.field f
  if f.key = Reg.EVQ_CTRL.SIZE_LOG2.key then (s.evqAfter w).1 != v
  else if f.key = Reg.EVQ_CTRL.ALARM_RESV.key then (s.evqAfter w).2 != v
  else if f.key = Reg.PWR_CTRL.WARN_C.key then decide (v < 60) || decide (104 < v)
  else if f.key = Reg.PWR_CTRL.BOOST_T_C.key then
    let warn := w.field Reg.PWR_CTRL.WARN_C
    let warn := if w.covers Reg.PWR_CTRL.WARN_C && 60 ≤ warn && warn ≤ 104 then warn else s.rd Reg.PWR_CTRL.WARN_C
    decide (v < 60) || decide (warn < v)
  else f.rsv.bad v

/-- The sources that a field admits (R39, R176, R478). Outside the Referee's and the power block no rule says whether a write of
the front end is admitted: DESIGN CHOICE, none is (log entry 110). -/
def State.admits (s : State) (src : Src) (f : Fld) : Bool :=
  if f.key = Reg.CAL_LOG_TAIL.TAIL.key then
    (if s.on Reg.POLICY_CTRL.CAL_OWNER then src = .captain else src = .host)
  else if f.key = Reg.REF_WDOG.KICK.key then src = .captain
  else if 0x1400000 ≤ f.off && f.off < 0x1800000 then src = .host
  else src != .frontEnd

/-- A write that reaches nothing: host accesses to blocks that do not answer yet (R500, R558). -/
def State.unreachable (s : State) (src : Src) (off : Nat) : Bool :=
  src = .host && !s.valid && !(decide (off < 0x10000) || (decide (0x1200000 ≤ off) && decide (off < 0x1400000)))

def State.accessErr (s : State) : State := s.inc Reg.HI_ACCESS_ERR.COUNT 1

/-- A software write to an HWU field dropped in the cycle of a hardware update (R35, R42). -/
def State.collide (s : State) (w : Wr) (off : Nat) : State :=
  let s := (s.inc Reg.WR_COLLIDE.COUNT 1).wr Reg.WR_COLLIDE.SRC w.src.code
  (s.wr Reg.WR_COLLIDE.ADDR (off % bar2)).wr Reg.WR_COLLIDE.BAR (off / bar2)

/-- A field that the write reaches and that it may not change (R37, R39). -/
def State.locked (s : State) (w : Wr) (f : Fld) : Bool :=
  w.covers f &&
  match f.ty with
  | .ro => false
  | .sc => w.field f != 0 && !s.admits w.src f
  | .w1c => w.field f != 0 && !s.admits w.src f
  | .wo1 => !s.admits w.src f || (s.wo1.contains f.key && !s.reservedCode w f)
  | _ => !s.admits w.src f

/-- One field under a write, by its type (R32, R35, R36). -/
def State.fieldWrite (s : State) (w : Wr) (f : Fld) : State :=
  if !w.covers f || s.locked w f then s
  else
    let v := w.field f
    let old := s.rd f
    match f.ty with
    | .ro => s
    | .sc => s
    | .rw => if s.reservedCode w f then s else s.wr f v
    | .rwl => if s.reservedCode w f then s else s.wr f v
    | .w1c => s.wr f ((old - (old &&& v)) ||| w.sameBits f)
    | .w1s => s.wr f (old ||| v)
    | .wo1 => if s.reservedCode w f then s else { s.wr f v with wo1 := f.key :: s.wo1 }
    | .cnt => s.wr f v
    | .hwu => if w.sameBits f != 0 then s.collide w f.off else if s.reservedCode w f then s else s.wr f v

/-- A write to a register: every field by its own rule; one violation for the write when some field drops it. -/
def State.writeFields (s : State) (off : Nat) (w : Wr) (fs : List Fld) : State :=
  let bad := fs.any (s.locked w)
  let s' := fs.foldl (fun t f => if s.locked w f then t else t.fieldWrite w f) s
  let s' := if fs.any w.spans then s'.accessErr else s'
  if bad then s'.lockViolation w.src.code (w.place off) w.dropped else s'

/-- A write to the register at an offset of the map, from a source it can come from. -/
def State.writeAt (s : State) (off : Nat) (w : Wr) : State :=
  if s.unreachable w.src off then s else s.writeFields off w (fieldsAt regRows off)

end Sys2Proof.Machine
end

