-- ==== Sys2Proof/Machine/HostIf.lean ====
section
/-! DEFINITION. The host interface: reads of registers, the BAR4 window, notifications, the event ring (R29, R276, R281,
R282, R438 to R450, R480, R481). -/

namespace Sys2Proof.Machine

/-! ## Reads (R28 to R33) -/

/-- The MSI-X table as PCIe lays it out: word `k`, with vectors masked at reset (log entry 8). -/
def State.msixWord (s : State) (k : Nat) : Nat := mapGet s.msix (if k % 2 = 1 then 2 ^ 32 else 0) k

/-- The 8 bytes that a host read finds at an aligned offset of BAR0 or, above `bar2`, of BAR2. -/
def State.hostWord (s : State) (off : Nat) : Nat :=
  if s.unreachable .host off then 0
  else if 0x1000 ≤ off && off < 0x1900 then
    match s.fit with
    | some m => if s.valid then leAt m.bytes (off - 0x1000) 8 else 0
    | none => 0
  else if 0x18000 ≤ off && off < 0x18400 then s.msixWord ((off - 0x18000) / 8)
  else if off = 0x19000 then s.msixPend
  else if 0x20000 ≤ off && off < 0x21000 then leAt s.cap.mbIn (off - 0x20000) 8
  else if 0x21000 ≤ off && off < 0x22000 then leAt s.cap.mbOut (off - 0x21000) 8
  else s.regWord off

/-- An access that a register accepts (R29). -/
def accessOk (off size : Nat) : Bool := (size = 4 || size = 8) && off % size = 0

/-- A register read: refused with 0 and a count, or answered with the value that stands there. -/
def opRegisterRead (bar off size : Nat) (s : State) : State :=
  let base := if bar = 2 then bar2 else 0
  if accessOk off size then
    s.send (.completion (leBytes size (s.hostWord (base + off / 8 * 8) / 2 ^ (8 * (off % 8)))) false)
  else s.accessErr.send (.completion (List.replicate size 0) false)

def opRefusedRegisterRead (bar off size : Nat) (s : State) : State := opRegisterRead bar off size s

/-! ## BAR4 (R276, R281, R282, R439) -/

/-- The device address that a BAR4 offset reaches. -/
def State.bar4Addr (s : State) (off : Nat) : Nat := s.rd Reg.BAR4_WIN.BASE * 2 ^ 30 + off

/-- A host read through the window. -/
def opBar4Read (off size : Nat) (errs : List MemErr) (s : State) : State :=
  let a := s.bar4Addr off
  if !s.valid || s.reserve < a + size then s.send (.completion (List.replicate size 0) false)
  else
    let s := s.memErrs (errsIn [⟨false, ⟨false, a⟩, size⟩] errs)
    match s.poisonIn a size with
    | some p => (s.poisonRead p).send (.completion (List.replicate size 0xFF) true)
    | none => { s.send (.completion (s.seen ⟨false, a⟩ size) false) with free := s.free + size }

/-- MEM_UE of a write without a context (R282, R493). -/
def State.writeUe (s : State) (p : Nat) : State :=
  (s.ueAddr p).raise Ev.MEM_UE 2 6 (stackIsland (s.stackOf p)) none [(8, p), (1, s.stackOf p)]

/-- A host write through the window; what would change part of a poisoned sector is dropped. -/
def opBar4Write (off : Nat) (bytes : List Nat) (errs : List MemErr) (s : State) : State :=
  let a := s.bar4Addr off
  let n := bytes.length
  if !s.valid || n = 0 || s.reserve < a + n then s
  else
    let part := (partSectors a n).eraseDups
    let s := s.memErrs (errsIn [⟨true, ⟨false, a⟩, n⟩] errs)
    let bad := part.filter s.poison.contains
    bad.foldl State.writeUe (s.devWrite a bytes).1

/-! ## Notifications (R443, R460) -/

def opSbNotifyArm (c : Nat) (w : Wr) (s : State) : State := (s.writeAt (Reg.SB_NOTIFY_CTRL.ARM c).off w).notify c

/-! ## The event ring (R447 to R450, R481) -/

/-- Free places of the ring; none while it is off. -/
def State.evqFree (s : State) : Nat :=
  if s.on Reg.EVQ_CTRL.EN then
    2 ^ s.ev.sizeLog2 - (s.rd Reg.EVQ_HEAD.HEAD + 2 ^ 32 - s.rd Reg.EVQ_TAIL.TAIL) % 2 ^ 32
  else 0

/-- The range of the Referee's event-ring bound holds a record. -/
def State.evqBound (s : State) (a : Nat) : Bool :=
  let base := s.rd Reg.REF_EVQ_BASE.BASE * 4096
  decide (base ≤ a) && decide (a + 64 ≤ base + 4096 * (s.rd Reg.REF_EVQ_CTRL.PAGES + 1))

/-- The LAST_DENY_SRC code of event records (R489). -/
def denyEvent := 2

/-- A record written at HEAD with its PHASE, and vector 0 sent; false where the Referee refuses it, which clears EN. -/
def State.evqPut (s : State) (e : Event) : State × Bool :=
  let head := s.rd Reg.EVQ_HEAD.HEAD
  let size := 2 ^ s.ev.sizeLog2
  let a := s.ev.base + 64 * (head % size)
  if s.evqBound a && s.windowAdmits a 64 true then
    (({ s with hostMem := s.hostMem.wrBytes a (e.bytes (1 - head / size % 2)) }.wr Reg.EVQ_HEAD.HEAD (head + 1)).msixSend 0, true)
  else
    (((s.deny a denyEvent).wr Reg.EVQ_CTRL.EN 0).wr Reg.HI_STATUS.EVQ_REFUSED 1, false)

/-- A non-alarm record that cannot be written is lost and counted. -/
def State.evqLose (s : State) (e : Event) : State :=
  let s := (s.inc Reg.EVQ_OVERFLOW.LOST 1).wr Reg.HI_STATUS.EVQ_LOST 1
  let l := s.ev.lost
  { s with ev := { s.ev with lost := (l.1 + 1, if l.1 = 0 then e.time else l.2.1, e.time) } }

/-- A write of EVQ_CTRL: an enable samples the ring and moves HEAD to TAIL; what was
posted before is lost (R450). -/
def opEvqEnable (w : Wr) (s0 : State) : State :=
  let s := s0.writeAt Reg.EVQ_CTRL.EN.off w
  if s.on Reg.EVQ_CTRL.EN && !s0.on Reg.EVQ_CTRL.EN then
    let s := s.ev.posted.foldl State.evqLose s
    { s.wr Reg.EVQ_HEAD.HEAD (s.rd Reg.EVQ_TAIL.TAIL) with ev := { s.ev with
        posted := [], base := 64 * s.rd Reg.EVQ_BASE.ADDR, sizeLog2 := s.rd Reg.EVQ_CTRL.SIZE_LOG2 } }
  else s

/-- The EVQ_OVERFLOW record. -/
def State.overflowEvent (s : State) : Event :=
  { typ := Ev.EVQ_OVERFLOW, cls := 0, sev := 0, subsys := 12, src := hostIsland, hasCtx := false, ctx := 0, time := s.now,
    coal := 0, fold := 0, payload := payloadOf [(8, s.ev.lost.1), (8, s.ev.lost.2.1), (8, s.ev.lost.2.2)] [] }

/-- Alarms that have been written to the ring and sent to the hall leave the queue (R510). -/
def State.dropAlarms (s : State) : State :=
  { s with ev := { s.ev with alarms := s.ev.alarms.filter fun a => !(a.ring && a.hall) } }

/-- The oldest alarm that waits for the ring has been written. -/
def markRing : List Alarm → List Alarm
  | [] => []
  | a :: rest => if a.ring then a :: markRing rest else { a with ring := true } :: rest

/-- The next record: a waiting alarm, else the overflow record, else the oldest posted record; a posted record that finds no
room is lost. -/
def opEvqRecordWrite (s : State) : State :=
  let free := s.evqFree
  let room := decide (s.rd Reg.EVQ_CTRL.ALARM_RESV < free)
  let alarm := if 0 < free then s.ev.alarms.find? (fun a => !a.ring) else none
  match alarm with
  | some a =>
    let r := s.evqPut a.ev
    if r.2 then State.dropAlarms { r.1 with ev := { r.1.ev with alarms := markRing r.1.ev.alarms } } else r.1
  | none =>
    if s.muted then s
    else if room && decide (0 < s.ev.lost.1) then
      let r := s.evqPut s.overflowEvent
      if r.2 then { r.1 with ev := { r.1.ev with lost := (0, 0, 0) } } else r.1
    else
      match s.ev.posted with
      | [] => s
      | e :: rest =>
        let s := { s with ev := { s.ev with posted := rest } }
        if !room then s.evqLose e
        else
          let r := s.evqPut e
          if r.2 then r.1 else r.1.evqLose e

def execRefusedRegisterRead (bar off size : Nat) (s : State) : Out := .next (opRefusedRegisterRead bar off size s)
def execBar4Read (off size : Nat) (errs : List MemErr) (s : State) : Out := .next (opBar4Read off size errs s)
def execBar4Write (off : Nat) (bytes : List Nat) (errs : List MemErr) (s : State) : Out := .next (opBar4Write off bytes errs s)
def execSbNotifyArm (c : Nat) (w : Wr) (s : State) : Out := .next (opSbNotifyArm c w s)
def execEvqEnable (w : Wr) (s : State) : Out := .next (opEvqEnable w s)
def execEvqRecordWrite (s : State) : Out := .next (opEvqRecordWrite s)

end Sys2Proof.Machine
end

