-- ==== Sys2Proof/Machine/Flits.lean ====
section
/-! DEFINITION. Eordon Link transport: routes and full paths, flits, a port's credits and replay buffer, re-injection, NACKs
and control messages (R15, R402 to R408, R412, R420). -/

namespace Sys2Proof.Machine

/-! ## Routes (R402, R403, R412) -/

/-- Coordinate of a module index in dimension `d`. -/
def coordOf (m d : Nat) : Nat := m / 16 ^ d % 16
def State.dimSize (s : State) (d : Nat) : Nat := if d = 0 then s.dims.1 else if d = 1 then s.dims.2.1 else s.dims.2.2

/-- The dimension order of a plane. -/
def dimOrder (plane : Nat) : List Nat := [plane % 3, (plane + 1) % 3, (plane + 2) % 3]

/-- The torus direction of the next hop from `a` to `b` on a plane. -/
def State.hop (s : State) (plane a b : Nat) : Option Nat :=
  ((dimOrder plane).find? fun d => coordOf a d != coordOf b d).map fun d =>
    let n := s.dimSize d
    let delta := (coordOf b d + n - coordOf a d) % n
    if 2 * delta ≤ n then 2 * d else 2 * d + 1

/-- The neighbour of a module in a direction. -/
def State.neighbour (s : State) (m dir : Nat) : Nat :=
  let d := dir / 2
  let n := s.dimSize d
  let c := if dir % 2 = 0 then (coordOf m d + 1) % n else (coordOf m d + n - 1) % n
  m - coordOf m d * 16 ^ d + c * 16 ^ d

/-- A hop crosses the wrap link of its dimension. -/
def State.crosses (s : State) (m dir : Nat) : Bool :=
  let c := coordOf m (dir / 2)
  if dir % 2 = 0 then c + 1 = s.dimSize (dir / 2) else c = 0

def State.portState (s : State) (p : Nat) : Nat := s.rd (Reg.LINK_PORT.STATE p)
def Port.OFF := 0
def Port.TRAINING := 1
def Port.UP := 2
def Port.DOWN := 3

/-- The port-up bits of this module. -/
def State.myPorts (s : State) : Nat := sumNat ((List.range 18).map fun p => b2n (s.portState p = Port.UP) * 2 ^ p)

/-- A port of a module is up in the map. -/
def State.portUp (s : State) (m p : Nat) : Bool := bitOf (mapGet s.dom.ports 0 m) p

/-- The direction opposite to one (R15). -/
def opposite (dir : Nat) : Nat := if dir % 2 = 0 then dir + 1 else dir - 1

/-- Every module and every port of the route, at both ends of each hop, is up in the map. -/
def State.pathUp (s : State) (plane b : Nat) : Nat → Nat → Bool
  | 0, _ => false
  | n + 1, a =>
    s.dom.members.contains a &&
    match s.hop plane a b with
    | none => a = b
    | some dir =>
      let m := s.neighbour a dir
      s.portUp a (6 * plane + dir) && s.portUp m (6 * plane + opposite dir) && s.pathUp plane b n m

/-- The planes that have a full path from this module to another (R412). -/
def State.planesTo (s : State) (b : Nat) : List Nat := [0, 1, 2].filter fun p => s.pathUp p b 64 s.myIndex

/-- This module's own port for a plane's first hop is UP. -/
def State.ownUp (s : State) (b plane : Nat) : Bool :=
  match s.hop plane s.myIndex b with
  | some dir => s.portState (6 * plane + dir) = Port.UP
  | none => true

/-! ## Flits (R404, R405) -/

/-- TYPE of a flit. -/
def Flit.IDLE := 0
def Flit.DATA := 1
def Flit.READY := 2
def Flit.CTRL := 3
def Flit.NACK := 4
def Flit.RETRY := 5

/-- The CREDIT field: what a flit returns on each virtual channel. -/
def creditWord (c : List Nat) : Nat := nth c 0 0 + 2 ^ 4 * nth c 0 1 + 2 ^ 8 * nth c 0 2 + 2 ^ 12 * nth c 0 3

/-- The 256 bytes of a flit. -/
def Hdr.bytes (h : Hdr) (seq ack : Nat) (credit payload : List Nat) : List Nat :=
  let w := h.typ + h.vc * 2 ^ 4 + b2n h.last * 2 ^ 6 + seq * 2 ^ 8 + ack * 2 ^ 20 + creditWord credit * 2 ^ 32 + h.dst * 2 ^ 48 +
    h.src * 2 ^ 64 + h.plane * 2 ^ 76 + h.tag * 2 ^ 80 + h.msg * 2 ^ 112 + h.rank * 2 ^ 128 + h.off * 2 ^ 144 + h.len * 2 ^ 176
  let body := leBytes 28 w ++ (payload ++ List.replicate 224 0).take 224
  body ++ leBytes 4 (crc32 body)

def flitSeq (bs : List Nat) : Nat := bitsOf (leAt bs 0 28) 8 12
def flitAck (bs : List Nat) : Nat := bitsOf (leAt bs 0 28) 20 12
def flitPayload (bs : List Nat) : List Nat := (bs.drop 28).take 224
/-- The credits that a CREDIT field returns. -/
def creditsOf (w : Nat) : List Nat := (List.range 4).map fun v => bitsOf w (4 * v) 4
def flitCredit (bs : List Nat) : List Nat := creditsOf (bitsOf (leAt bs 0 28) 32 16)
/-- The header that the bytes of a flit hold. -/
def hdrOf (bs : List Nat) : Hdr :=
  let w := leAt bs 0 28
  ⟨bitsOf w 0 4, bitsOf w 4 2, bitOf w 6, bitsOf w 48 12, bitsOf w 64 12, bitsOf w 76 2, bitsOf w 80 32, bitsOf w 112 16,
   bitsOf w 128 12, bitsOf w 144 32, bitsOf w 176 8⟩
/-- The CRC of a flit holds. -/
def flitOk (bs : List Nat) : Bool := bs.length = 256 && leAt bs 252 4 = crc32 (bs.take 252)

/-- The header of an IDLE or a RETRY flit, which carry no message. -/
def Hdr.bare (typ : Nat) : Hdr := ⟨typ, 0, false, 0, 0, 0, 0, 0, 0, 0, 0⟩

/-! ## Ports (R405, R407) -/

def State.port (s : State) (p : Nat) : PortSt := mapGet s.link PortSt.reset p
def State.setPort (s : State) (p : Nat) (x : PortSt) : State := { s with link := mapSet s.link p x }

/-- Flits that a port sends without an acknowledgement. -/
def replayDepth := 512

/-- The highest SEQ that a port has received in order. -/
def State.rxAck (s : State) (p : Nat) : Nat := ((s.port p).expect + 4095) % 4096

/-- A flit goes out, with ACK and the credits of the buffers freed since the last one. -/
def State.emit (s : State) (p : Nat) (h : Hdr) (seq ack : Nat) (payload : List Nat) : State :=
  let x := s.port p
  let give := x.owed.map (min · 15)
  (s.setPort p { x with owed := (x.owed.zip give).map (fun e => e.1 - e.2), lastTx := s.now }).send (.flit p (h.bytes seq ack give payload))

/-- A flit buffer of a port is free again; its credit goes back with a later flit. -/
def State.freeBuffer (s : State) (held : Option (Nat × Nat)) : State :=
  match held with
  | some (q, v) => let x := s.port q; s.setPort q { x with owed := modifyAt x.owed v (· + 1) }
  | none => s

/-- The waiting flit that a port sends next: the oldest that has a credit, but within virtual channels 2 and 3 a CTRL flit
before all others; between the two classes the spec names no order (log entry 86). -/
def PortSt.pick (x : PortSt) : Option Nat :=
  let can := fun (f : WaitFlit) => decide (0 < nth x.credits 0 f.hdr.vc)
  if replayDepth ≤ x.unacked.length then none
  else match findPos can x.waiting with
    | none => none
    | some i =>
      if (x.waiting[i]?.map fun f => f.hdr.vc).getD 0 < 2 then some i
      else ((findPos fun f => can f && f.hdr.typ = Flit.CTRL) x.waiting).or (some i)

/-- A waiting flit takes its SEQ and a credit and is sent; the buffer that it held is free. -/
def State.sendNext (s : State) (p i : Nat) : State :=
  let x := s.port p
  match x.waiting[i]? with
  | none => s
  | some f =>
    let s := s.setPort p { x with
      waiting := x.waiting.eraseIdx i
      unacked := x.unacked ++ [(x.txSeq, f.hdr, f.payload)]
      txSeq := (x.txSeq + 1) % 4096
      credits := modifyAt x.credits f.hdr.vc (· - 1) }
    let s := s.freeBuffer f.held
    s.emit p f.hdr x.txSeq (s.rxAck p) f.payload

/-- At most `n` waiting flits of a port are sent. -/
def State.pumpN (s : State) (p : Nat) : Nat → State
  | 0 => s
  | n + 1 => match (s.port p).pick with
    | none => s
    | some i => (s.sendNext p i).pumpN p n

/-- A port sends what waits, as far as credits and the replay buffer allow. -/
def State.pump (s : State) (p : Nat) : State := s.pumpN p (s.port p).waiting.length

/-- A flit joins the flits of a port. -/
def State.pushFlit (s : State) (p : Nat) (f : WaitFlit) : State :=
  let x := s.port p
  (s.setPort p { x with waiting := x.waiting ++ [f] }).pump p

/-- ACK and CREDIT of a received flit: the flits up to SEQ `ack` leave the replay buffer, and the credits are there to use. -/
def State.takeAck (s : State) (p ack : Nat) (credit : List Nat) : State :=
  let x := s.port p
  s.setPort p { x with
    unacked := x.unacked.filter fun e => decide (2048 ≤ (ack + 4096 - e.1) % 4096)
    credits := (x.credits.zip credit).map fun e => min vcBuffers (e.1 + e.2) }

/-- The virtual channel of a hop: the upper one from the wrap link of the dimension on; `stay` for a flit that comes along the
same dimension on the upper one (R405). -/
def State.hopVc (s : State) (typ dir : Nat) (stay : Bool) : Nat :=
  (if typ = Flit.DATA || typ = Flit.READY then 0 else 2) + b2n (stay || s.crosses s.myIndex dir)

/-- A new packet leaves this module on a plane. -/
def State.launch (s : State) (plane : Nat) (h : Hdr) (payload : List Nat) (held : Option (Nat × Nat)) : State :=
  match s.hop plane s.myIndex h.dst with
  | none => s.freeBuffer held
  | some dir => s.pushFlit (6 * plane + dir) ⟨{ h with plane := plane, vc := s.hopVc h.typ dir false }, payload, held⟩

/-! ## NACKs (R420) and re-injection (R408) -/

/-- The plane that a NACK takes. A module outside the domain has no map to judge paths by: it takes the refused flit's plane,
else the lowest one, whose first port is UP (log entry 128). -/
def State.nackPlane (s : State) (h : Hdr) : Option Nat :=
  if s.dom.members.contains s.myIndex then (s.planesTo h.src).find? (s.ownUp h.src)
  else [h.plane, 0, 1, 2].find? (s.ownUp h.src)

/-- A refused flit is answered to its source; a NACK is never answered with one, and one that cannot be delivered is counted. -/
def State.nackFlit (s : State) (code : Nat) (h : Hdr) (addr : Nat) : State :=
  if h.typ = Flit.NACK then s.inc Reg.LINK_COUNT.NACK_LOST 1
  else
    let bs := leBytes 2 code ++ leBytes 4 h.tag ++ leBytes 2 h.msg ++ leBytes 4 h.off ++ leBytes 2 h.dst ++ [0, 0] ++ leBytes 8 addr
    match s.nackPlane h with
    | some q =>
      ((s.launch q ⟨Flit.NACK, 0, true, h.src, s.myIndex, q, h.tag, 0, h.rank, 0, bs.length⟩ bs none).send
        (.nack code h.tag addr)).inc Reg.LINK_COUNT.NACK_SENT 1
    | none => s.inc Reg.LINK_COUNT.NACK_LOST 1

/-- A flit whose port is out of service goes out as a new packet on the lowest plane with a full path whose first port is UP;
one that has none is answered PEER_DOWN (R408). -/
def State.reroute (s : State) (h : Hdr) (payload : List Nat) (held : Option (Nat × Nat)) : State :=
  match (s.planesTo h.dst).find? (s.ownUp h.dst) with
  | some q => s.launch q h payload held
  | none => (s.freeBuffer held).nackFlit 1 h 0

/-- A flit leaves this module toward its destination on its plane; `inDir` is the direction of the port it came by. -/
def State.forward (s : State) (h : Hdr) (inDir : Option Nat) (payload : List Nat) (held : Option (Nat × Nat)) : State :=
  match s.hop h.plane s.myIndex h.dst with
  | none => s.freeBuffer held
  | some dir =>
    let stay := match inDir with
      | some d => d / 2 = dir / 2 && h.vc % 2 = 1
      | none => false
    let p := 6 * h.plane + dir
    if s.portState p = Port.UP then s.pushFlit p ⟨{ h with vc := s.hopVc h.typ dir stay }, payload, held⟩
    else s.reroute h payload held

/-- Every flit of a port that leaves service, sent without an acknowledgement or still waiting, is re-injected; transit flits
no longer hold that port's buffers. -/
def State.reinject (s : State) (p : Nat) : State :=
  let free := fun (f : WaitFlit) => if f.held.any fun e => e.1 = p then { f with held := none } else f
  let s := { s with link := mapVals (fun _ (x : PortSt) => { x with waiting := x.waiting.map free }) s.link }
  let x := s.port p
  let s := s.setPort p PortSt.reset
  (x.unacked.map (fun e => WaitFlit.mk e.2.1 e.2.2 none) ++ x.waiting).foldl (fun s f => s.reroute f.hdr f.payload f.held) s

/-! ## Messages (R404, R412, R426) -/

/-- A port that has sent nothing for 1 µs sends an IDLE flit, which returns ACK and credits (R404). -/
def State.idleFlits (s : State) : State :=
  if s.stopped then s
  else (List.range 18).foldl (fun s p =>
    if s.portState p = Port.UP && decide ((s.port p).lastTx + 1000 ≤ s.now) then s.emit p (Hdr.bare Flit.IDLE) 0 (s.rxAck p) []
    else s) s

/-- The payload of a message cut into flits: at least one. -/
def flitChunks (bs : List Nat) : List (List Nat) :=
  (List.range (max 1 (ceilDiv bs.length 224))).map fun k => (bs.drop (224 * k)).take 224

/-- A message leaves in flits, striped over the planes that have a full path when it takes more than one (R412); none where
no plane has. -/
def State.message (s : State) (typ msg tag rank dst : Nat) (bytes : List Nat) : Option State :=
  match s.planesTo dst with
  | [] => none
  | p0 :: ps =>
    let chunks := flitChunks bytes
    let planes := if chunks.length = 1 then [p0] else p0 :: ps
    some (((List.range chunks.length).zip chunks).foldl (fun s c =>
      s.forward ⟨typ, 0, c.1 + 1 = chunks.length, dst, s.myIndex, nth planes p0 (c.1 % planes.length), tag, msg, rank, c.1,
        c.2.length⟩ none c.2 none) s)

/-- A control message to a module; one without a full path is lost. The spec gives control payloads no layout: their fields
stand as 8-byte numbers (log entry 86). -/
def State.ctrlTo (s : State) (code dst : Nat) (fields : List Nat) : State :=
  match s.message Flit.CTRL code 0 0 dst (fields.flatMap (leBytes 8)) with
  | some t => t.send (.ctrl code dst fields)
  | none => s

end Sys2Proof.Machine
end

