-- ==== Sys2Proof/Machine/Num.lean ====
section
/-! DEFINITION. Exact arithmetic on dyadic numbers and the binary floating-point formats of R99, R102 to R105 and R113.
Every value the formats hold is a dyadic number, so products and sums are exact and rounding is one named operation. -/

namespace Sys2Proof.Machine

/-- The exact number `m × 2^e`. -/
structure Dy where
  m : Int
  e : Int
  deriving DecidableEq, Repr

def Dy.zero : Dy := ⟨0, 0⟩
def Dy.ofNat (n : Nat) : Dy := ⟨n, 0⟩
def Dy.neg (a : Dy) : Dy := ⟨-a.m, a.e⟩
def Dy.abs (a : Dy) : Dy := ⟨a.m.natAbs, a.e⟩
def Dy.mul (a b : Dy) : Dy := ⟨a.m * b.m, a.e + b.e⟩
def Dy.shift (a : Dy) (k : Int) : Dy := ⟨a.m, a.e + k⟩
def Dy.isZero (a : Dy) : Bool := a.m == 0
def Dy.isNeg (a : Dy) : Bool := decide (a.m < 0)

/-- The integer mantissa of `a` at exponent `e`, for `e ≤ a.e`. -/
def Dy.mantAt (a : Dy) (e : Int) : Int := a.m * (2 : Int) ^ (a.e - e).toNat

def Dy.add (a b : Dy) : Dy :=
  let e := min a.e b.e
  ⟨a.mantAt e + b.mantAt e, e⟩
def Dy.sub (a b : Dy) : Dy := a.add b.neg
def Dy.lt (a b : Dy) : Bool := decide ((a.sub b).m < 0)
def Dy.le (a b : Dy) : Bool := decide ((a.sub b).m ≤ 0)
def Dy.max (a b : Dy) : Dy := if a.lt b then b else a
def Dy.sum (l : List Dy) : Dy := l.foldl Dy.add Dy.zero
/-- `a` to the power `n`. -/
def Dy.pow (a : Dy) : Nat → Dy
  | 0 => ⟨1, 0⟩
  | n + 1 => (a.pow n).mul a

/-- `⌊log2 |a|⌋` of a non-zero number. -/
def Dy.floorLog2 (a : Dy) : Int := (Nat.log2 a.m.natAbs : Int) + a.e

/-- `⌊a / b⌋` of two numbers that are not negative, `b` not zero. -/
def Dy.floorDiv (a b : Dy) : Nat :=
  let e := min a.e b.e
  (a.mantAt e).toNat / (b.mantAt e).toNat

/-- `a / b` with `extra` further bits of quotient and a sticky bit, so that rounding it to fewer than `extra - 2` bits
rounds the exact quotient. Both numbers are not negative, `b` not zero. -/
def Dy.quot (a b : Dy) (extra : Nat) : Dy :=
  if a.isZero then Dy.zero
  else
    let k : Int := a.floorLog2 - b.floorLog2
    let sh : Int := (extra : Int) - k
    let n := (a.shift sh).floorDiv b
    let exact := ((b.mul ⟨n, 0⟩).sub (a.shift sh)).isZero
    ⟨(2 * n + b2n (!exact) : Nat), -sh - 1⟩

/-- A value of a number format: a NaN, an infinity, minus zero, or an exact number. -/
inductive Num
  | nan
  | inf (neg : Bool)
  | nzero
  | fin (d : Dy)
  deriving DecidableEq, Repr

def Num.zero : Num := .fin Dy.zero
def Num.isFinite : Num → Bool
  | .nzero => true
  | .fin _ => true
  | _ => false
def Num.isNaN : Num → Bool
  | .nan => true
  | _ => false
/-- The exact number of a finite value; zero of any other. -/
def Num.dy : Num → Dy
  | .fin d => d
  | _ => Dy.zero
def Num.isNeg : Num → Bool
  | .inf n => n
  | .nzero => true
  | .fin d => d.isNeg
  | .nan => false
def Num.isZero (a : Num) : Bool := a.isFinite && a.dy.isZero
def Num.neg : Num → Num
  | .nan => .nan
  | .inf n => .inf (!n)
  | .nzero => Num.zero
  | .fin d => if d.isZero then .nzero else .fin d.neg
/-- Scaling by `2^k`, exact. -/
def Num.shift (k : Int) : Num → Num
  | .fin d => .fin (d.shift k)
  | x => x

/-- The exact sum, with the signs, infinities and NaNs of IEEE 754 under round to nearest even. -/
def Num.add : Num → Num → Num
  | .nan, _ => .nan
  | _, .nan => .nan
  | .inf a, .inf b => if a = b then .inf a else .nan
  | .inf a, _ => .inf a
  | _, .inf b => .inf b
  | .nzero, .nzero => .nzero
  | .nzero, y => y
  | x, .nzero => x
  | .fin a, .fin b => .fin (a.add b)

/-- The exact product, with the signs, infinities and NaNs of IEEE 754. -/
def Num.mul (x y : Num) : Num :=
  let neg := x.isNeg != y.isNeg
  match x, y with
  | .nan, _ => .nan
  | _, .nan => .nan
  | .inf _, b => if b.isZero then .nan else .inf neg
  | a, .inf _ => if a.isZero then .nan else .inf neg
  | a, b =>
    if a.isZero || b.isZero then (if neg then .nzero else Num.zero) else .fin (a.dy.mul b.dy)

/-- `x < y` as IEEE 754 orders numbers, minus zero equal to zero; false with a NaN. -/
def Num.lt : Num → Num → Bool
  | .nan, _ => false
  | _, .nan => false
  | .inf a, .inf b => a && !b
  | .inf a, _ => a
  | _, .inf b => !b
  | x, y => x.dy.lt y.dy

/-- A binary floating-point format: exponent bits, mantissa bits, bias, whether the all-ones exponent holds
infinities (R99). -/
structure FFmt where
  eb : Nat
  mb : Nat
  bias : Nat
  ieee : Bool
  deriving DecidableEq, Repr

def FFmt.f32 : FFmt := ⟨8, 23, 127, true⟩
def FFmt.bf16 : FFmt := ⟨8, 7, 127, true⟩
def FFmt.e4m3 : FFmt := ⟨4, 3, 7, false⟩
def FFmt.e5m2 : FFmt := ⟨5, 2, 15, true⟩

/-- The magnitude code of the infinity of an IEEE format. -/
def FFmt.infCode (f : FFmt) : Nat := (2 ^ f.eb - 1) * 2 ^ f.mb
/-- The largest finite magnitude code: 0x7E in E4M3, 0x7B in E5M2 (R99). -/
def FFmt.maxCode (f : FFmt) : Nat := if f.ieee then f.infCode - 1 else 2 ^ (f.eb + f.mb) - 2
/-- The canonical NaN that the device writes (R99). -/
def FFmt.nanCode (f : FFmt) : Nat :=
  if f.ieee then f.infCode + 2 ^ (f.mb - 1) else 2 ^ (f.eb + f.mb) - 1
def FFmt.signBit (f : FFmt) : Nat := 2 ^ (f.eb + f.mb)

/-- The exact value of a finite magnitude code. -/
def FFmt.magDy (f : FFmt) (c : Nat) : Dy :=
  let ex := c / 2 ^ f.mb
  let man := c % 2 ^ f.mb
  if ex = 0 then ⟨man, 1 - (f.bias : Int) - f.mb⟩
  else ⟨(2 ^ f.mb + man : Nat), (ex : Int) - f.bias - f.mb⟩

/-- The value that the bits of a format hold. -/
def FFmt.decode (f : FFmt) (bits : Nat) : Num :=
  let neg := bits / f.signBit % 2 = 1
  let c := bits % f.signBit
  if f.ieee && decide (f.infCode ≤ c) then (if c = f.infCode then .inf neg else .nan)
  else if !f.ieee && c = f.nanCode then .nan
  else if c = 0 then (if neg then .nzero else Num.zero)
  else .fin (if neg then (f.magDy c).neg else f.magDy c)

/-- How an encode rounds: to nearest even (R102), or stochastically with the 16 random bits `r` (R103, R104). -/
inductive Rnd
  | rne
  | sr (r : Nat)
  deriving DecidableEq, Repr

/-- The magnitude code of `|d|` rounded in format `f`, not yet saturated or turned into an infinity.
`addUp` is the stochastic rule of R104 for BF16 (`r + L ≥ 65,536`); otherwise R103's (`r < F`). -/
def FFmt.roundMag (f : FFmt) (rnd : Rnd) (addUp : Bool) (d : Dy) : Nat :=
  let a := d.abs
  if a.isZero then 0
  else
    let ex : Int := max a.floorLog2 (1 - (f.bias : Int))
    let q : Dy := ⟨1, ex - f.mb⟩
    let n := a.floorDiv q
    let rem := a.sub ⟨n, ex - f.mb⟩
    let up : Bool :=
      match rnd with
      | .rne =>
        let twice := rem.shift 1
        q.lt twice || (!twice.lt q && n % 2 = 1)
      | .sr r =>
        let frac := (rem.shift 16).floorDiv q
        if rem.isZero then false
        else if addUp then decide (65536 ≤ r + frac) else decide (r < frac)
    ((ex + f.bias - 1).toNat) * 2 ^ f.mb + n + b2n up

/-- The bits of an IEEE format for a value, one rounding, overflow to infinity, the canonical NaN (R99, R113). -/
def FFmt.encode (f : FFmt) (rnd : Rnd) (x : Num) : Nat :=
  match x with
  | .nan => f.nanCode
  | .inf n => b2n n * f.signBit + f.infCode
  | .nzero => f.signBit
  | .fin d => b2n d.isNeg * f.signBit + min (f.roundMag rnd true d) f.infCode

/-- The bits of an FP8 format for a value: finite values saturate to the maximum, NaN stays NaN, infinities become
NaN in E4M3 and stay in E5M2 (R105). -/
def FFmt.encodeSat (f : FFmt) (rnd : Rnd) (x : Num) : Nat :=
  match x with
  | .nan => f.nanCode
  | .inf n => if f.ieee then b2n n * f.signBit + f.infCode else f.nanCode
  | .nzero => f.signBit
  | .fin d =>
    let big := (f.magDy f.maxCode).le d.abs
    b2n d.isNeg * f.signBit + (if big then f.maxCode else min (f.roundMag rnd false d) f.maxCode)

/-- FP32 and BF16 bits, round to nearest even. -/
def f32Of (x : Num) : Nat := FFmt.f32.encode .rne x
def f32Val (bits : Nat) : Num := FFmt.f32.decode bits
def bf16Of (x : Num) : Nat := FFmt.bf16.encode .rne x
def bf16Val (bits : Nat) : Num := FFmt.bf16.decode bits

/-- The FP32 sum of two FP32 values, one rounding (R113). -/
def f32Add (a b : Nat) : Nat := f32Of ((f32Val a).add (f32Val b))
/-- An exact contribution added to an FP32 accumulator with one rounding (R113). -/
def f32Acc (acc : Nat) (x : Num) : Nat := f32Of ((f32Val acc).add x)
def f32IsNaN (a : Nat) : Bool := (f32Val a).isNaN
/-- `a < b` of FP32 values; false with a NaN. -/
def f32Lt (a b : Nat) : Bool := (f32Val a).lt (f32Val b)

/-- The quotient of two exact numbers rounded once to FP32; `den` is not zero. -/
def ratToF32 (num den : Dy) : Nat :=
  let q := num.abs.quot den.abs 60
  f32Of (.fin (if num.isNeg != den.isNeg then q.neg else q))

/-- The Hagouno mixer of R107. -/
def hagounoRound (seedLo seedHi : Word) (r : Nat) (t : Word × Word × Word × Word) : Word × Word × Word × Word :=
  let a := t.1 + t.2.1
  let d := (t.2.2.2 ^^^ a).rotateLeft 29
  let c := t.2.2.1 + d
  let b := (t.2.1 ^^^ c).rotateLeft 41
  let a := a + b
  let d := (d ^^^ a).rotateLeft 13
  let c := c + d
  let b := (b ^^^ c).rotateLeft 47
  if r % 2 = 1 then (a + seedLo, b + seedHi + BitVec.ofNat 64 r, c, d) else (a, b, c, d)

def hagounoMix (seedLo seedHi step tensor purpose index : Nat) : Nat :=
  let lo : Word := BitVec.ofNat 64 seedLo
  let hi : Word := BitVec.ofNat 64 seedHi
  let a := lo ^^^ BitVec.ofNat 64 index
  let b := hi ^^^ BitVec.ofNat 64 step
  let c := (BitVec.ofNat 64 (purpose % 256) <<< 56) ^^^ (BitVec.ofNat 64 (tensor % 2 ^ 32) <<< 16)
    ^^^ 0x9E3779B97F4A7C15#64
  let d := lo ^^^ hi ^^^ 0x6A5C3E91D2B47F03#64
  let t := (List.range 8).foldl (fun t r => hagounoRound lo hi r t) (a, b, c, d)
  (t.1 ^^^ t.2.1 ^^^ t.2.2.1 ^^^ t.2.2.2).toNat

/-- The 16 random bits of element `e` of a tensor (R109). -/
def srBits (seedLo seedHi step tensor e : Nat) : Nat :=
  bitsOf (hagounoMix seedLo seedHi step tensor 0 (e / 4)) (16 * (e % 4)) 16

/-- Parity of the one bits of `n`, for `n` below 32. -/
def parity5 (n : Nat) : Bool :=
  (bitOf n 0 != bitOf n 1) != ((bitOf n 2 != bitOf n 3) != bitOf n 4)

/-- The sign word of a rotation key (R125). -/
def signWord (seedLo seedHi rotStep rotId r : Nat) : Nat :=
  hagounoMix seedLo seedHi rotStep rotId 1 r % 2 ^ 32

/-- The forward rotation of a block (R126), exact. -/
def rotateFwd (sw : Nat) (x : List Num) : List Num :=
  (List.range 32).map fun i =>
    (List.range 32).foldl (fun acc j =>
      let v := nth x Num.zero j
      acc.add (if parity5 (i &&& j) != bitOf sw j then v.neg else v)) Num.zero

/-- The inverse rotation of a block (R126), exact; the factor `2^−5` is taken into the exponent (R127). -/
def rotateInv (sw : Nat) (y : List Num) : List Num :=
  (List.range 32).map fun j =>
    let t := (List.range 32).foldl (fun acc i =>
      let v := nth y Num.zero i
      acc.add (if parity5 (i &&& j) then v.neg else v)) Num.zero
    (if bitOf sw j then t.neg else t).shift (-5)

end Sys2Proof.Machine
end

