-- ==== Sys2Proof/Machine/Q4.lean ====
section
/-! DEFINITION. The block formats of R77 and R88 to R106, their decoders and encoders, and the exact block products of R110 to R118. -/

namespace Sys2Proof.Machine

/-- Twice the magnitude of an E2M1 magnitude code (R88). -/
def e2m1Twice (c : Nat) : Nat := nth [0, 1, 2, 3, 4, 6, 8, 12] 0 (c % 8)

/-- The signed twice-value of an E2M1 code; code 0x8 reads as zero (R89). -/
def e2m1Val (c : Nat) : Int := if c % 16 < 8 then (e2m1Twice c : Int) else -(e2m1Twice c : Int)

/-- The twice-value of an INT4 code; code 0x8 reads as zero (R95). -/
def int4Val (c : Nat) : Int := if c % 16 = 8 then 0 else 2 * toSigned c 4

/-- A Q4-class block: exponent code, 32 signed twice-values, four multipliers `4 + NUDGE` (R91). -/
structure QBlk where
  exp : Nat
  t : List Int
  m : List Nat
  deriving DecidableEq, Repr

/-- A Q4N or INT4 block from its 18 bytes read as a number (R90, R95). -/
def qblkOfBits (int4 : Bool) (v : Nat) : QBlk :=
  { exp := bitsOf v 128 8
    t := (List.range 32).map fun k => if int4 then int4Val (bitsOf v (4 * k) 4) else e2m1Val (bitsOf v (4 * k) 4)
    m := (List.range 4).map fun j => if int4 then 4 else 4 + bitsOf v (136 + 2 * j) 2 }

/-- The place of kept element `k` among the 32 dense elements of a sparse block (R77). -/
def sparsePlace (v k : Nat) : Nat := 4 * (k / 2) + bitsOf v (64 + 2 * k) 2

/-- A 2:4 sparse block from its 14 bytes read as a number, expanded to dense places (R77, R79). -/
def sparseOfBits (int4 : Bool) (v : Nat) : QBlk :=
  { exp := bitsOf v 96 8
    t := (List.range 32).map fun i =>
      (List.range 16).foldl (fun acc k =>
        if sparsePlace v k = i then
          acc + (if int4 then int4Val (bitsOf v (4 * k) 4) else e2m1Val (bitsOf v (4 * k) 4))
        else acc) (0 : Int)
    m := (List.range 4).map fun j => if int4 then 4 else 4 + bitsOf v (104 + 2 * j) 2 }

/-- A group of a sparse block whose two indices are not in rising order (R78). -/
def sparseMetaBad (v : Nat) : Bool :=
  (List.range 8).any fun g => decide (bitsOf v (64 + 4 * g + 2) 2 ≤ bitsOf v (64 + 4 * g) 2)

/-- Some element code of an INT4 block, dense or sparse, is 0x8 (R95); it counts as met whatever the block's EXP is (log entry
122). -/
def int4HasCode8 (n v : Nat) : Bool := (List.range n).any fun k => bitsOf v (4 * k) 4 = 8

/-- The exact value of element `k` of a Q4-class block (R91, R92). -/
def QBlk.val (b : QBlk) (k : Nat) : Num :=
  if b.exp = 0 then Num.zero
  else if b.exp = 255 then .nan
  else .fin ⟨nth b.t 0 k * ((nth b.m 4 (k / 8) : Nat) : Int), (b.exp : Int) - 130⟩

/-- The 32 exact values of a Q4-class block. -/
def QBlk.vals (b : QBlk) : List Num := (List.range 32).map b.val

/-- A side-array entry (R93). -/
structure Side where
  val0 : Nat
  val1 : Nat
  idx0 : Nat
  idx1 : Nat
  count : Nat
  deriving DecidableEq, Repr

def Side.empty : Side := ⟨0, 0, 0, 0, 0⟩
def Side.ofBits (v : Nat) : Side := ⟨bitsOf v 0 16, bitsOf v 16 16, bitsOf v 32 5, bitsOf v 37 5, bitsOf v 42 2⟩
def Side.toBits (s : Side) : Nat :=
  s.val0 + s.val1 * 2 ^ 16 + s.idx0 * 2 ^ 32 + s.idx1 * 2 ^ 37 + s.count * 2 ^ 42
/-- The outliers an entry lists: element index and exact value (R93). -/
def Side.list (s : Side) : List (Nat × Num) :=
  (if 1 ≤ s.count then [(s.idx0, bf16Val s.val0)] else []) ++
  (if 2 ≤ s.count then [(s.idx1, bf16Val s.val1)] else [])
/-- OUTLIER_META (R94). -/
def Side.bad (s : Side) : Bool := s.count = 3 || (s.count = 2 && decide (s.idx1 ≤ s.idx0))

/-- A Q4-class block with the slots its entry lists reading as zero (R93). -/
def QBlk.masked (b : QBlk) (s : Side) : QBlk :=
  { b with t := (List.range 32).map fun k => if s.list.any (fun o => o.1 = k) then 0 else nth b.t 0 k }

/-- The values of a block with its outliers merged back (R134). -/
def mergedVals (b : QBlk) (s : Side) : List Num :=
  (List.range 32).map fun k =>
    match s.list.find? (fun o => o.1 = k) with
    | some o => o.2
    | none => b.val k

/-- The 32 values of an MXFP4 block (R97). -/
def mxfp4Vals (scale v : Nat) : List Num :=
  (List.range 32).map fun k =>
    if scale = 255 then .nan
    else .fin ⟨e2m1Val (bitsOf v (4 * k) 4), (scale : Int) - 128⟩

/-- The values of an MXFP8 block (R98). -/
def mxfp8Vals (f : FFmt) (scale : Nat) (bs : List Nat) : List Num :=
  bs.map fun b => if scale = 255 then .nan else (f.decode b).shift ((scale : Int) - 127)

/-- The largest magnitude of some values. -/
def amaxOf (l : List Num) : Dy := l.foldl (fun a x => a.max x.dy.abs) Dy.zero

/-- A finite magnitude divided by scale `s` rounded to an E2M1 magnitude code (R102, R103). -/
def e2m1Code (rnd : Rnd) (x s : Dy) : Nat :=
  let a := x.abs
  match rnd with
  | .rne =>
    b2n (((s.mul ⟨1, -2⟩).lt a)) + b2n ((s.mul ⟨3, -2⟩).le a) + b2n ((s.mul ⟨5, -2⟩).lt a)
      + b2n ((s.mul ⟨7, -2⟩).le a) + b2n ((s.mul ⟨10, -2⟩).lt a) + b2n ((s.mul ⟨14, -2⟩).le a)
      + b2n ((s.mul ⟨20, -2⟩).lt a)
  | .sr r =>
    if (s.mul ⟨6, 0⟩).le a then 7
    else
      let lo := sumNat ((List.range 7).map fun c => if c = 0 then 0 else b2n ((s.mul ⟨e2m1Twice c, -1⟩).le a))
      let gLo := s.mul ⟨e2m1Twice lo, -1⟩
      let gHi := s.mul ⟨e2m1Twice (lo + 1), -1⟩
      let f := ((a.sub gLo).shift 16).floorDiv (gHi.sub gLo)
      if decide (r < f) then lo + 1 else lo

/-- An encoded Q4N block and what the statistics record counts of it. -/
structure QEnc where
  exp : Nat
  codes : List Nat
  nudges : List Nat
  /-- finite elements saturated because R100 capped the exponent -/
  sat : List Bool
  deriving DecidableEq, Repr

def QEnc.zeroBlock : QEnc := ⟨0, List.replicate 32 0, [0, 0, 0, 0], List.replicate 32 false⟩
def QEnc.nanBlock : QEnc := ⟨255, List.replicate 32 0, [0, 0, 0, 0], List.replicate 32 false⟩

/-- An MXFP4 block brought to Q4N: for scales 0x01 to 0xFE EXP and the codes copied, −0 as 0, nudges 0; a NaN block for
0xFF (R97). -/
def mxfp4Copy (scale v : Nat) : QEnc :=
  if scale = 255 then QEnc.nanBlock
  else ⟨scale, (List.range 32).map fun k => if bitsOf v (4 * k) 4 = 8 then 0 else bitsOf v (4 * k) 4,
    [0, 0, 0, 0], List.replicate 32 false⟩

/-- The block as the MAC array reads it. -/
def QEnc.blk (b : QEnc) : QBlk := ⟨b.exp, b.codes.map e2m1Val, b.nudges.map (4 + ·)⟩

/-- The 18 bytes of a block (R90). -/
def QEnc.bytes (b : QEnc) : List Nat :=
  ((List.range 16).map fun i => nth b.codes 0 (2 * i) + 16 * nth b.codes 0 (2 * i + 1)) ++
  [b.exp, nth b.nudges 0 0 + 4 * nth b.nudges 0 1 + 16 * nth b.nudges 0 2 + 64 * nth b.nudges 0 3]

/-- The block exponent `E` chosen from `amax`, not zero (R100). -/
def q4nExp (amax : Dy) : Int :=
  let e1 := amax.floorLog2 - 2
  let e2 := if amax.le ⟨21, e1 - 2⟩ then e1 - 1 else e1
  min (max e2 (-126)) 127

/-- The nudge of a sub-block whose largest magnitude is `a` (R101). -/
def q4nNudge (a : Dy) (e : Int) : Nat :=
  if a.le ⟨6, e⟩ then 0 else if a.le ⟨15, e - 1⟩ then 1 else if a.le ⟨9, e⟩ then 2 else 3

/-- The Q4N encode of one block (R100 to R106); `outl` marks the outlier slots, `rnd k` is the rounding of element `k`. -/
def q4nEncode (x : List Num) (outl : List Bool) (rnd : Nat → Rnd) : QEnc :=
  if x.any (fun v => !v.isFinite) then QEnc.nanBlock
  else
    let mag := fun k => if nth outl false k then Dy.zero else (nth x Num.zero k).dy.abs
    let amax := (List.range 32).foldl (fun a k => a.max (mag k)) Dy.zero
    if amax.isZero then QEnc.zeroBlock
    else
      let e := q4nExp amax
      let nudges := (List.range 4).map fun j =>
        q4nNudge ((span (8 * j) 8).foldl (fun a k => a.max (mag k)) Dy.zero) e
      let scale := fun k => (⟨4 + nth nudges 0 (k / 8), e - 2⟩ : Dy)
      let codes := (List.range 32).map fun k =>
        let c := e2m1Code (rnd k) (mag k) (scale k)
        if c = 0 then 0 else c + 8 * b2n (nth x Num.zero k).dy.isNeg
      let sat := (List.range 32).map fun k => ((scale k).mul ⟨6, 0⟩).lt (mag k)
      if codes.all (· = 0) then QEnc.zeroBlock else ⟨(e + 127).toNat, codes, nudges, sat⟩

/-- The indices of the outliers of a block under `OUTL_LOG2 = n`, ascending (R132). -/
def outlierIdx (n : Nat) (x : List Num) : List Nat :=
  if x.any (fun v => !v.isFinite) then []
  else
    let mag := fun k => (nth x Num.zero k).dy.abs
    /- index of the largest magnitude outside `skip`, ties to the lower index -/
    let top := fun (skip : List Nat) =>
      ((List.range 32).filter (fun k => !skip.contains k)).foldl (fun best k =>
        match best with
        | none => some k
        | some b => if (mag b).lt (mag k) then some k else some b) (none : Option Nat)
    match top [] with
    | none => []
    | some i1 =>
      match top [i1] with
      | none => []
      | some i2 =>
        match top [i1, i2] with
        | none => []
        | some i3 =>
          let bound := (mag i3).shift n
          let take := fun i => !(mag i).isZero && bound.le (mag i)
          let l := (if take i1 then [i1] else []) ++ (if take i2 then [i2] else [])
          if i2 < i1 then l.reverse else l

/-- The side entry of a block whose outliers stand at `idx` (R93, R133). -/
def sideOf (x : List Num) (idx : List Nat) (rnd : Nat → Rnd) : Side :=
  let v := fun i => FFmt.bf16.encode (rnd i) (nth x Num.zero i)
  match idx with
  | [] => Side.empty
  | [i] => ⟨v i, 0, i, 0, 1⟩
  | i :: j :: _ => ⟨v i, v j, i, j, 2⟩

/-- An MXFP4 block: scale byte, 32 codes, saturated elements (R97). -/
def mxfp4Encode (x : List Num) : Nat × List Nat × List Bool :=
  if x.any (fun v => !v.isFinite) then (255, List.replicate 32 0, List.replicate 32 false)
  else
    let amax := amaxOf x
    if amax.isZero then (0, List.replicate 32 0, List.replicate 32 false)
    else
      let e := min (max (amax.floorLog2 - 2) (-127)) 127
      let s : Dy := ⟨1, e⟩
      ((e + 127).toNat,
        x.map (fun v => let c := e2m1Code .rne v.dy s; if c = 0 then 0 else c + 8 * b2n v.dy.isNeg),
        x.map (fun v => (⟨6, e⟩ : Dy).lt v.dy.abs))

/-- An MXFP8 block: scale byte, element bytes, saturated elements (R105); `emax` is 8 for E4M3 and 15 for E5M2. -/
def mxfp8Encode (f : FFmt) (x : List Num) (rnd : Nat → Rnd) : Nat × List Nat × List Bool :=
  let n := x.length
  if x.any (fun v => !v.isFinite) then (255, List.replicate n f.nanCode, List.replicate n false)
  else
    let amax := amaxOf x
    if amax.isZero then (0, List.replicate n 0, List.replicate n false)
    else
      let emax : Int := if f.ieee then 15 else 8
      let e := min (max (amax.floorLog2 - emax) (-127)) 127
      ((e + 127).toNat,
        (List.range n).map (fun k => f.encodeSat (rnd k) ((nth x Num.zero k).shift (-e))),
        x.map (fun v => ((f.magDy f.maxCode).shift e).lt v.dy.abs))

/-- The sub-block integer `D_j` of R111. -/
def subD (a b : List Int) (j : Nat) : Int :=
  (span (8 * j) 8).foldl (fun acc i => acc + nth a 0 i * nth b 0 i) 0

/-- The residue sum `C_j` of R118. -/
def subC (a b : List Int) (j : Nat) : Int :=
  (span (8 * j) 8).foldl (fun acc i => acc + (nth a 0 i % 7) * (nth b 0 i % 7)) 0 % 7

/-- The block integer `P` of R111. -/
def blockP (a b : QBlk) : Int :=
  (List.range 4).foldl (fun acc j => acc + ((nth a.m 4 j : Nat) : Int) * ((nth b.m 4 j : Nat) : Int) * subD a.t b.t j) 0

/-- The exact block value of a Q4 pair; NaN with a NaN block (R111, R117). -/
def pairValue (a b : QBlk) : Num :=
  if a.exp = 255 || b.exp = 255 then .nan else .fin ⟨blockP a b, (a.exp : Int) + b.exp - 260⟩

end Sys2Proof.Machine
end

