-- ==== Sys2Proof/Machine/Tma.lean ====
section
/-! DEFINITION. The ternary match arrays: searches, the invalidate, write and validate protocol, generations, TMA_EDIT and
its items, the scrubber and the iterate cursor (R179 to R208, R255). -/

namespace Sys2Proof.Machine

/-! ## Searches (R185 to R190) -/

def TmaSlot.empty : TmaSlot := ⟨0, 0, 0, 0, false, 0⟩
def Tile.slot (t : Tile) (a : Nat) : TmaSlot := mapGet t.tma TmaSlot.empty a
def Tile.setSlot (t : Tile) (a : Nat) (x : TmaSlot) : Tile := { t with tma := mapSet t.tma a x }
def Tile.isFirst (t : Tile) (a : Nat) : Bool := a % t.span = 0 && decide (a < 512)
/-- The first slot of the entry that a slot belongs to. -/
def Tile.firstOf (t : Tile) (a : Nat) : Nat := a - a % t.span

/-- KEY and MASK of the entry whose first slot is `a`, over the bank's width (R180). -/
def Tile.entryKey (t : Tile) (a : Nat) : Nat := sumNat ((List.range t.span).map fun u => (t.slot (a + u)).key * 2 ^ (128 * u))
def Tile.entryMask (t : Tile) (a : Nat) : Nat := sumNat ((List.range t.span).map fun u => (t.slot (a + u)).mask * 2 ^ (128 * u))

def popCount (w v : Nat) : Nat := count (fun k => bitOf v k) (List.range w)
def Tile.entryLen (t : Tile) (a : Nat) : Nat := popCount (128 * t.span) (t.entryMask a)

/-- The key bit selected for pre-filter bit `i` (R189). -/
def Tile.pfSel (t : Tile) (i : Nat) : Nat :=
  t.rd (nth [TReg.TMA_PF_SEL0.SEL0, TReg.TMA_PF_SEL0.SEL1, TReg.TMA_PF_SEL0.SEL2, TReg.TMA_PF_SEL0.SEL3,
    TReg.TMA_PF_SEL1.SEL4, TReg.TMA_PF_SEL1.SEL5, TReg.TMA_PF_SEL1.SEL6, TReg.TMA_PF_SEL1.SEL7] TReg.TMA_PF_SEL0.SEL0 i)

/-- Row group `g` is enabled for a key (R189). -/
def Tile.groupOn (t : Tile) (key g : Nat) : Bool :=
  let k := sumNat ((List.range 8).map fun i => b2n (bitOf key (t.pfSel i)) * 2 ^ i)
  t.rd (TReg.TMA_PF.OFF g) = 0 &&
    k &&& t.rd (TReg.TMA_PF.MASK g) = t.rd (TReg.TMA_PF.VALUE g) &&& t.rd (TReg.TMA_PF.MASK g)

/-- The entry with first slot `a` matches a key (R185). -/
def Tile.matchesAt (t : Tile) (key a : Nat) (x : TmaSlot) : Bool :=
  x.valid && x.gen = t.rd TReg.TMA_GEN.ACTIVE && t.groupOn key (a / 32) &&
  (t.entryKey a &&& t.entryMask a) = (key &&& t.entryMask a)

/-- The matching entries, as (entry address, first slot), in address order. -/
def Tile.matchList (t : Tile) (key : Nat) : List (Nat × TmaSlot) :=
  (t.tma.filter fun p => t.isFirst p.1 && t.matchesAt key p.1 p.2).map fun p => (p.1 / t.span, p.2)

/-- The match of rank `k`: LEN descending, then address ascending (R186, R202). -/
def rankOf (ms : List (Nat × TmaSlot)) (k : Nat) : Option (Nat × TmaSlot) :=
  let sorted := sortBy (fun x y => decide (y.2.len < x.2.len) || (x.2.len = y.2.len && decide (x.1 ≤ y.1))) ms
  sorted[k]?

/-- The result of a search: the match of rank `k` with the fields of R187. -/
structure Found where
  hit : Bool
  leaf : Nat
  addr : Nat
  tie : Bool
  total : Nat
  len : Nat
  deriving DecidableEq, Repr

def Tile.searchRank (t : Tile) (key k : Nat) : Found :=
  let ms := t.matchList key
  match rankOf ms k with
  | none => ⟨false, 0, 0, false, ms.length, 0⟩
  | some m => ⟨true, m.2.leaf, m.1, decide (1 < count (fun x => x.2.len = m.2.len) ms), ms.length, m.2.len⟩

def Tile.search (t : Tile) (key : Nat) : Found := t.searchRank key 0

/-- The result word of R187. -/
def Found.word (f : Found) : Nat :=
  f.leaf + f.addr * 2 ^ 16 + b2n f.hit * 2 ^ 25 + b2n f.tie * 2 ^ 26 + min f.total 15 * 2 ^ 27 + f.len * 2 ^ 32

/-- A search by an op counted on its tile. -/
def Tile.counted (t : Tile) (f : Found) : Tile :=
  let t := t.inc TReg.TMA_COUNT0.SEARCHES 1
  let t := if f.hit then t.inc TReg.TMA_COUNT0.HITS 1 else t
  if f.tie then t.inc TReg.TMA_COUNT1.TIES 1 else t

/-- Bytes written to a tile's SRAM. A word in error that the write covers in part is replaced whole, its other bytes left
unspecified, and the error is gone (R286). -/
def State.putSram (s : State) (t a : Nat) (bytes : List Nat) : State :=
  let n := bytes.length
  let hit := (s.tile t).badWords.filter fun w => decide (a < 8 * w + 8) && decide (8 * w < a + n)
  let s := (hit.filter fun w => !(decide (a ≤ 8 * w) && decide (8 * w + 8 ≤ a + n))).foldl (fun s w =>
    s.takeFree.modTile t fun x => { x with sram := x.sram.wrLE (8 * w) 8 (Config.freeWord s.free).toNat }) s
  s.modTile t fun x => { x with sram := x.sram.wrBytes a bytes, badWords := x.badWords.filter fun w => !hit.contains w }

/-! ## Slot errors (R205) -/

/-- The bank as a search finds it while bits of it are in error: searches compare against the bits as they stand until the
scrubber's visit. -/
def Tile.flipped (x : Tile) (t : Nat) (flips : List SlotFlip) : Tile :=
  flips.foldl (fun x f =>
    if f.tile != t then x
    else
      let y := x.slot f.slot
      x.setSlot f.slot { y with key := y.key ^^^ f.key, mask := y.mask ^^^ f.mask, leaf := y.leaf ^^^ f.leaf, gen := y.gen ^^^ f.gen,
                                valid := y.valid != f.valid }) x

def State.tmaEvent (s : State) (t typ slot : Nat) : State :=
  s.note typ (dutySubsys (s.tile t).duty) (s.tileIsland t) none [(4, t), (2, slot)]

/-- A write dropped under R191 or R207. -/
def State.editDrop (s : State) (t slot : Nat) : State :=
  (s.modTile t fun x => x.wr TReg.TMA_STATUS.EDIT_DROP 1).tmaEvent t Ev.TMA_EDIT_DROP slot

/-- A free value of 128 bits (log entry 2). -/
def freeUnit (n : Nat) : Nat := (Config.freeWord n).toNat + (Config.freeWord (n + 1)).toNat * 2 ^ 64

/-- The words of a slot in which a double-bit error was found hold unspecified bits: word `bad` of the slot where the check
names it, else every word the code covers, LEAF_REF and GEN of a first slot among them. -/
def State.spoilSlot (s : State) (t a : Nat) (bad : Option Nat) : State :=
  let x := (s.tile t).slot a
  let w := (Config.freeWord s.free).toNat
  let half := fun (v : Nat) (hi : Bool) => if hi then v % 2 ^ 64 + w * 2 ^ 64 else v / 2 ^ 64 * 2 ^ 64 + w
  let x' := match bad with
    | some 0 => { x with key := half x.key false }
    | some 1 => { x with key := half x.key true }
    | some 2 => { x with mask := half x.mask false }
    | some 3 => { x with mask := half x.mask true }
    | some _ => { x with leaf := w % 2 ^ 16, gen := w / 2 ^ 16 % 4 }
    | none =>
      let v := (Config.freeWord (s.free + 4)).toNat
      let x := { x with key := freeUnit s.free, mask := freeUnit (s.free + 2) }
      if (s.tile t).isFirst a then { x with leaf := v % 2 ^ 16, gen := v / 2 ^ 16 % 4 } else x
  let s' := s.modTile t fun y => y.setSlot a x'
  { s' with free := s.free + 5 }

/-- What the check of one slot does, by a scrub or by a write that reaches the slot (R205). -/
def State.checkSlot (s : State) (t a : Nat) (found : ErrFound) (bad : Option Nat) : State :=
  match found with
  | .none => s
  | .ce => (s.modTile t fun x => x.wr TReg.TMA_STATUS.ECC_CORR 1).tmaEvent t Ev.TMA_ECC_CORR a
  | .ue =>
    let x := s.tile t
    let first := x.firstOf a
    let live := (x.slot first).valid
    let s := (s.modTile t fun y => (y.wr TReg.TMA_STATUS.ECC_UNCORR 1).setSlot first
      { y.slot first with valid := false, len := 0 }).spoilSlot t a bad
    if live && x.st != .idle then
      s.faultQ Ev.TMA_ECC (dutySubsys x.duty) (s.tileIsland t) x.ctx [(4, t), (2, a)]
    else s.tmaEvent t Ev.TMA_ECC a

/-! ## The edit actions (R191, R196, R198) -/

/-- VALID becomes 1 and LEN is computed. -/
def Tile.validate (t : Tile) (a : Nat) : Tile :=
  if (t.slot a).valid then t else t.setSlot a { t.slot a with valid := true, len := t.entryLen a }
/-- VALID becomes 0; LEN then reads 0. -/
def Tile.invalidate (t : Tile) (a : Nat) : Tile := t.setSlot a { t.slot a with valid := false, len := 0 }
/-- KEY and MASK of a slot, and LEAF_REF and GEN when it is an entry's first slot. -/
def Tile.writeSlot (t : Tile) (a key mask ctrl : Nat) : Tile :=
  let x := t.slot a
  let x := { x with key := key, mask := mask }
  t.setSlot a (if t.isFirst a then { x with leaf := bitsOf ctrl 0 16, gen := bitsOf ctrl 16 2 } else x)

def Tile.setPf (t : Tile) (g w : Nat) : Tile :=
  ((t.wr (TReg.TMA_PF.VALUE g) (bitsOf w 0 8)).wr (TReg.TMA_PF.MASK g) (bitsOf w 8 8)).wr (TReg.TMA_PF.OFF g) (bitsOf w 16 1)

/-- A selector register; a selector at or above the bank's width is a reserved code and leaves its field (R190). -/
def Tile.setPfSel (t : Tile) (half w : Nat) : Tile :=
  let fs := if half = 0 then [TReg.TMA_PF_SEL0.SEL0, TReg.TMA_PF_SEL0.SEL1, TReg.TMA_PF_SEL0.SEL2, TReg.TMA_PF_SEL0.SEL3]
    else [TReg.TMA_PF_SEL1.SEL4, TReg.TMA_PF_SEL1.SEL5, TReg.TMA_PF_SEL1.SEL6, TReg.TMA_PF_SEL1.SEL7]
  fs.foldl (fun t f => let v := bitsOf w f.lo 9; if v < 128 * t.span then t.wr f v else t) t

/-- The copy of maps and actions in use on a pattern bank: 0 or 1 (R255). -/
def Tile.other (t : Tile) : Nat := 1 - t.inUse
def Tile.copyGen (t : Tile) (c : Nat) : Option Nat := if c = 0 then t.copy0 else t.copy1
def Tile.setCopyGen (t : Tile) (c g : Nat) : Tile := if c = 0 then { t with copy0 := some g } else { t with copy1 := some g }

/-- Bytes of one copy. -/
def copySize : Nat := 0xC000

/-- Where a copy starts in SRAM: as the image names it, else 48 KiB apart. -/
def State.copyBase (s : State) (t : Tile) (c : Nat) : Nat :=
  match (t.cfg.bind fun k => mapGet? s.configs k).bind (·.pat) with
  | some p => if c = 0 then p.copyBase0 else p.copyBase1
  | none => c * copySize

/-- The flip of a bank: ACTIVE, FLIPS, and on a pattern bank the copy in use (R200, R255). -/
def Tile.flip (t : Tile) (gen : Nat) : Tile :=
  let t := if t.duty = 4 && gen != t.rd TReg.TMA_GEN.ACTIVE && t.copyGen t.other = some gen then { t with inUse := t.other } else t
  (t.wr TReg.TMA_GEN.ACTIVE gen).inc TReg.TMA_GEN.FLIPS 1

/-- The effect of one edit item on its bank. -/
def State.applyItem (s : State) (t : Nat) (it : EditItem) (found : ErrFound) : State :=
  let x := s.tile t
  match it.op with
  | 1 => (s.checkSlot t it.slot found none).modTile t fun y => y.invalidate it.slot
  | 2 =>
    let s := s.checkSlot t it.slot found none
    let x := s.tile t
    if (x.slot (x.firstOf it.slot)).valid then s.editDrop t it.slot
    else s.modTile t fun y => y.writeSlot it.slot it.keyBits it.maskBits it.w1
  | 3 => (s.checkSlot t it.slot found none).modTile t fun y => y.validate it.slot
  | 4 => s.modTile t fun y => y.setPf it.slot it.w1
  | 5 => s.modTile t fun y => y.setPfSel it.slot it.w1
  | 6 => s.modTile t fun y => y.flip (bitsOf it.w1 0 2)
  | 7 =>
    let off := bitsOf it.keyBits 0 16
    let base := s.copyBase x x.other
    (s.putSram t (base + off) (leBytes 8 it.w1)).modTile t fun y => y.setCopyGen x.other (bitsOf it.keyBits 16 2)
  | _ => s

/-! ## TMA_EDIT (R194 to R201) -/

/-- An edit item of 64 bytes, read at the given bytes: OP, SLOT, POS, word 1, KEY, MASK. -/
def editAt (bs : List Nat) (i : Nat) : Nat × Nat × Nat × Nat × Nat × Nat :=
  let w0 := leAt bs (64 * i) 8
  (bitsOf w0 0 4, bitsOf w0 4 9, bitsOf w0 16 16, leAt bs (64 * i + 8) 8, leAt bs (64 * i + 16) 16, leAt bs (64 * i + 32) 16)

/-- An item that fails the op with EDIT_BAD (R197). -/
def State.itemBad (s : State) (tiles : List Nat) (it : Nat × Nat × Nat × Nat × Nat × Nat) : Bool :=
  let op := it.1
  let slot := it.2.1
  let pos := it.2.2.1
  let targets := if pos = 0xFFFF then tiles else [nth tiles 0 pos]
  let bank := fun p => targets.any fun t => p (s.tile t)
  decide (8 ≤ op) || (pos != 0xFFFF && decide (tiles.length ≤ pos)) ||
  ((op = 1 || op = 3) && bank fun x => !x.isFirst slot) || (op = 4 && decide (15 < slot)) || (op = 5 && decide (1 < slot)) ||
  (op = 7 && (bank (fun x => x.duty != 4) || bitsOf it.2.2.2.2.1 0 16 % 8 != 0 || decide (copySize ≤ bitsOf it.2.2.2.2.1 0 16)))

/-- A FLIP that R255 refuses on a bank of duty 4, the AUX_WRITE items before it counted. -/
def State.flipRefused (s : State) (tiles : List Nat) (its : List (Nat × Nat × Nat × Nat × Nat × Nat)) (i : Nat) : Bool :=
  let it := nth its (0, 0, 0, 0, 0, 0) i
  let hits := fun (p : Nat) (j : Nat) => p = 0xFFFF || p = j
  it.1 = 6 && ((List.range tiles.length).any fun j =>
    let x := s.tile (nth tiles 0 j)
    let gen := bitsOf it.2.2.2.1 0 2
    /- the bank's active generation, copy in use and tags after the items before this one -/
    let st := (its.take i).foldl (fun (a : Nat × Nat × Option Nat × Option Nat) p =>
      if !hits p.2.2.1 j then a
      else if p.1 = 7 then
        (if a.2.1 = 0 then (a.1, a.2.1, a.2.2.1, some (bitsOf p.2.2.2.2.1 16 2))
         else (a.1, a.2.1, some (bitsOf p.2.2.2.2.1 16 2), a.2.2.2))
      else if p.1 = 6 && bitsOf p.2.2.2.1 0 2 != a.1 then (bitsOf p.2.2.2.1 0 2, 1 - a.2.1, a.2.2.1, a.2.2.2)
      else a) (x.rd TReg.TMA_GEN.ACTIVE, x.inUse, x.copy0, x.copy1)
    let tag := if st.2.1 = 0 then st.2.2.2 else st.2.2.1
    hits it.2.2.1 j && x.duty = 4 && gen != st.1 && tag != some gen)

/-- A running FILTAS or PATTERN op of a context on the group's tiles, if any (R195). -/
def State.streamOn (s : State) (c : Nat) (tiles : List Nat) : Option (OpKey × Op) :=
  s.allOps.find? fun p => p.1.ctx = c && (p.2.cls = Cls.FILTAS || p.2.cls = Cls.PATTERN) && p.2.st = .running &&
    (groupTiles (p.2.num 0)).any tiles.contains

/-- The first record that a running stream has not sent to any bank (R200). -/
def State.nextUnsent (s : State) (k : OpKey) (o : Op) : Nat :=
  match o.work with
  | .pattern w => w.next
  | _ => match s.se.streams.find? fun x => x.keys.contains k with
    | some x =>
      let n := if o.num 9 = 1 then (o.num 6 + 1) / 2 else o.num 6 + 1
      x.done.foldl (fun m d => max m (if d < x.s0 + n then x.s0 else d + 1 - n)) x.s0
    | none => 0

/-- EDIT_BAD of an op: its buffer's SEQ, OP_ID, the target position and the item's index (R565); a TMA event carries the
subsystem of its tile's duty (R58, R13). -/
def State.editBad (s : State) (k : OpKey) (t pos idx : Nat) : State :=
  s.opFault k Ev.EDIT_BAD (dutySubsys (s.tile t).duty) (s.tileIsland t) [(8, k.seq), (2, k.id), (2, pos), (4, idx)]

/-- FLIP_LATE: the record asked for and the record at which the flip acts (log entry 13). -/
def State.flipLate (s : State) (k : OpKey) (t asked act : Nat) : State :=
  s.note Ev.FLIP_LATE (dutySubsys (s.tile t).duty) (s.tileIsland t) (some k.ctx) [(8, asked), (8, act)]

/-- The record that a bank's running stream works on next: an item gated at a later record waits (R200). -/
def State.gateOpen (s : State) (t : Nat) (it : EditItem) : Bool :=
  match it.gate with
  | none => true
  | some g =>
    match (s.tile t).running with
    | none => true
    | some k =>
      match s.op? k with
      | none => true
      | some o =>
        match o.work with
        | .pattern w => decide (g ≤ w.flushed)
        | _ => match s.se.streams.find? fun x => x.keys.contains k with
          | some x => decide (g ≤ nth x.done 0 (o.num 5))
          | none => true

/-- One item of an op has been applied on a bank: counted, and the op told when it was the last (R197). EDITS counts every item
that the edit port takes, a NOP and a WRITE dropped under R191 among them (R207; DESIGN CHOICE, log entry 114). -/
def State.itemDone (s : State) (t : Nat) (it : EditItem) : State :=
  let s := s.modTile t fun x => x.inc TReg.TMA_COUNT1.EDITS 1
  match s.op? it.key with
  | none => s
  | some o =>
    match o.work with
    | .edit left flipRec bad =>
      if left ≤ 1 then
        match bad with
        | some b => s.editBad it.key t b.1 b.2
        | none => s.modOp it.key fun o => { o with st := .executed, work := .none, result := match flipRec with
            | some r => [r]
            | none => [] }
      else s.modOp it.key fun o => { o with work := .edit (left - 1) flipRec bad }
    | _ => s

/-- The item at the head of a bank's edit port applies, when it has the given OP and its gate is open. -/
def State.stepItem (s : State) (t op : Nat) (found : ErrFound) : State :=
  if s.stopped || s.heldTile t then s
  else
    match (s.tile t).edits with
    | [] => s
    | it :: rest =>
      if it.op = op && s.gateOpen t it then
        ((s.modTile t fun x => { x with edits := rest }).applyItem t it found).itemDone t it
      else s

/-- NOP items at the head of a bank's edit port pass with the item that follows them (R196). -/
def State.skipNops : Nat → State → Nat → State
  | 0, s, _ => s
  | n + 1, s, t =>
    match (s.tile t).edits with
    | it :: rest =>
      if it.op = 0 && !s.stopped && !s.heldTile t && s.gateOpen t it then State.skipNops n ((s.modTile t fun x => { x with edits := rest }).itemDone t it) t else s
    | [] => s

/-- The items queue on their banks; what remains is counted in the op (R195 to R197). -/
def opTmaEdit (k : OpKey) (errs : List MemErr) (s : State) : State :=
  match s.opIs k Cls.SYNC 3 .running with
  | none => s
  | some o =>
    match o.work, o.ref? 1 with
    | .none, some r =>
      let n := o.num 2
      s.accessing k errs [⟨false, r.loc, 64 * n⟩] fun s =>
        let tiles := groupTiles (o.num 0)
        let t0 := nth tiles 0 0
        let bs := s.read r.loc (64 * n)
        let its := (List.range n).map (editAt bs)
        match (List.range n).find? (s.flipRefused tiles its) with
        | some i => s.editBad k t0 (nth its (0, 0, 0, 0, 0, 0) i).2.2.1 i
        | none =>
          let cut := (findPos (s.itemBad tiles) its).getD n
          let bad := if cut < n then some ((nth its (0, 0, 0, 0, 0, 0) cut).2.2.1, cut) else none
          let stream := if o.num 3 = 1 then s.streamOn k.ctx tiles else none
          /- in band the whole list enters at one record boundary, a FLIP for a later record at that record -/
          let gate := fun (op w1 : Nat) => match stream with
            | none => none
            | some p =>
              let nx := s.nextUnsent p.1 p.2
              some (if op != 6 || bitOf w1 63 then nx else max nx (bitsOf w1 2 48))
          let one := fun (i j : Nat) (it : Nat × Nat × Nat × Nat × Nat × Nat) =>
            if it.2.2.1 = 0xFFFF || it.2.2.1 = j then
              [EditItem.mk k i (gate it.1 it.2.2.2.1) it.1 it.2.1 it.2.2.2.1 it.2.2.2.2.1 it.2.2.2.2.2]
            else []
          let forTile := fun j => (List.range cut).flatMap fun i => one i j (nth its (0, 0, 0, 0, 0, 0) i)
          /- a FLIP asked for a record that has gone is late -/
          let late := fun (s : State) (it : Nat × Nat × Nat × Nat × Nat × Nat) => match stream with
            | none => s
            | some p =>
              let nx := s.nextUnsent p.1 p.2
              if it.1 = 6 && !bitOf it.2.2.2.1 63 && decide (bitsOf it.2.2.2.1 2 48 < nx) then
                s.flipLate k t0 (bitsOf it.2.2.2.1 2 48) nx else s
          let s := (its.take cut).foldl late s
          let s := (List.range tiles.length).foldl (fun s j => s.modTile (nth tiles 0 j) fun x =>
            { x with edits := x.edits ++ forTile j }) s
          let left := sumNat ((List.range tiles.length).map fun j => (forTile j).length)
          let flipRec := (its.take cut).foldl (fun a it => if it.1 = 6 then gate 6 it.2.2.2.1 else a) none
          if left = 0 then
            match bad with
            | some b => s.editBad k t0 b.1 b.2
            | none => s.modOp k fun o => { o with st := .executed }
          else
            let s := s.modOp k fun o => { o with work := .edit left flipRec bad }
            tiles.foldl (fun s t => State.skipNops (s.tile t).edits.length s t) s
    | _, _ => s

def State.editStep (s : State) (t op : Nat) (found : ErrFound) : State :=
  let s := (State.skipNops (s.tile t).edits.length s t).stepItem t op found
  State.skipNops (s.tile t).edits.length s t

def opInval (t : Nat) (found : ErrFound) (s : State) : State := s.editStep t 1 found
def opWrite (t : Nat) (found : ErrFound) (s : State) : State := s.editStep t 2 found
def opValid (t : Nat) (found : ErrFound) (s : State) : State := s.editStep t 3 found
def opPf (t : Nat) (s : State) : State := s.editStep t 4 .none
def opPfSel (t : Nat) (s : State) : State := s.editStep t 5 .none
def opFlip (t : Nat) (s : State) : State := s.editStep t 6 .none
def opAuxWrite (t : Nat) (s : State) : State := s.editStep t 7 .none

/-! ## The scrubber (R205) -/

def opTmaScrub (t slot : Nat) (found : ErrFound) (s : State) : State :=
  if s.stopped || !s.tileRuns t || 512 ≤ slot then s else s.checkSlot t slot found none

/-! ## The iterate cursor (R202, R203) -/

def Tile.iKey (t : Tile) : Nat := sumNat ((List.range 8).map fun j => t.rd (TReg.TMA_IKEY.KEY j) * 2 ^ (64 * j)) % 2 ^ (128 * t.span)

/-- The key of TMA_IKEY is searched at once: TMA_IRESULT holds the snapshot, and shows it when BUSY clears. -/
def opTmaIcursorWrite (t k : Nat) (flips : List SlotFlip) (s : State) : State :=
  if s.stopped || s.heldTile t then s
  else
    let x := s.tile t
    let f := (x.flipped t flips).searchRank x.iKey (k % 1024)
    /- entries that are unspecified give an unspecified result, in which the reserved bits read 0 -/
    let w := (Config.freeWord s.free).toNat
    let word := if x.lost then bitsOf w 0 31 + bitsOf w 32 10 * 2 ^ 32 else f.word
    let s := if x.lost then s.takeFree else s
    s.modTile t fun x =>
      ((x.wr TReg.TMA_ICURSOR.CURSOR k).wr TReg.TMA_IRESULT.RESULT word).wr TReg.TMA_IRESULT.BUSY 1

def opTmaIterDone (t : Nat) (s : State) : State :=
  if s.stopped || s.heldTile t then s else s.modTile t fun x => x.wr TReg.TMA_IRESULT.BUSY 0

/-! ## The meanings -/

def execTmaEdit (k : OpKey) (errs : List MemErr) (s : State) : Out := .next (opTmaEdit k errs s)
def execInval (t : Nat) (f : ErrFound) (s : State) : Out := .next (opInval t f s)
def execWrite (t : Nat) (f : ErrFound) (s : State) : Out := .next (opWrite t f s)
def execValid (t : Nat) (f : ErrFound) (s : State) : Out := .next (opValid t f s)
def execPf (t : Nat) (s : State) : Out := .next (opPf t s)
def execPfSel (t : Nat) (s : State) : Out := .next (opPfSel t s)
def execFlip (t : Nat) (s : State) : Out := .next (opFlip t s)
def execAuxWrite (t : Nat) (s : State) : Out := .next (opAuxWrite t s)
def execTmaScrub (t slot : Nat) (f : ErrFound) (s : State) : Out := .next (opTmaScrub t slot f s)
def execTmaIcursorWrite (t k : Nat) (flips : List SlotFlip) (s : State) : Out := .next (opTmaIcursorWrite t k flips s)
def execTmaIterDone (t : Nat) (s : State) : Out := .next (opTmaIterDone t s)

end Sys2Proof.Machine
end

