-- ==== Sys2Proof/Machine/TileWindow.lean ====
section
/-! DEFINITION. The tile window: GO, and the completion of the running access with its data, its error code and SEQ
(R43 to R49, R193, R207); tile SRAM errors (R285, R286). -/

namespace Sys2Proof.Machine

/-! ## Which tile an ID reaches (R43, R54) -/

/-- The key under which the state of the tile that an ID reaches is held: a bench tile that serves a position is that
position's tile. -/
def State.tileKey (s : State) (t : Nat) : Nat := if s.logical t = 0x1FFFF then t else s.logical t

/-- No tile answers to the ID (R48). -/
def State.noTile (s : State) (t : Nat) : Bool :=
  s.dieFenced (tileDie t) || decide (81 < tileCol t) ||
  (match s.fit with
  | some m => decide (80 ≤ tileCol t) && m.benchFailed.contains (tileDie t, tileRow t, tileCol t - 80)
  | none => false)

/-! ## Tile SRAM errors (R285, R286, R65) -/

/-- What the check of one SRAM word found. `ctx` is the context of the op that read it, if an op did. -/
def State.sramCheck (s : State) (t word : Nat) (found : ErrFound) (ctx : Option Nat) : State :=
  let x := s.tile t
  match found with
  | .none => s
  | .ce =>
    ((s.inc Reg.MEM_SRAM_COUNT.CE 1).wr Reg.MEM_STATUS.SRAM_CE_SEEN 1).note Ev.SRAM_CE (dutySubsys x.duty) (s.tileIsland t)
      ctx [(4, t), (4, 8 * word)]
  | .ue =>
    let s := (s.inc Reg.MEM_SRAM_COUNT.UE 1).wr Reg.MEM_STATUS.SRAM_UE_SEEN 1
    let s := s.modTile t fun y => { y with
      ueWords := if y.ueWords.contains word then y.ueWords else word :: y.ueWords
      badWords := if y.badWords.contains word then y.badWords else word :: y.badWords }
    let s := if 2 ≤ (s.tile t).ueWords.length then s.recordFail 1 Ev.SRAM_UE (s.physical t) 0 else s
    match ctx with
    | none => s.note Ev.SRAM_UE (dutySubsys x.duty) (s.tileIsland t) none [(4, t), (4, 8 * word)]
    | some c => s.faultQ Ev.SRAM_UE (dutySubsys x.duty) (s.tileIsland t) c [(4, t), (4, 8 * word)]

/-- What a read of a word finds: a word found uncorrectable stays so until it is written (R286). -/
def Tile.sramFound (x : Tile) (word : Nat) (found : ErrFound) : ErrFound := if x.badWords.contains word then .ue else found

/-- SRAM errors that an op meets on its tiles: corrected ones are noted, an uncorrectable one faults the op's context (R285). -/
def State.sramMet (s : State) (k : OpKey) (tiles : List Nat) (errs : List MemErr) (f : State → State) : State :=
  let mine := errs.filterMap fun e => match e.tile with
    | some t => if tiles.contains t then some (t, e.addr / 8, e.found) else none
    | none => none
  let s' := mine.foldl (fun s e => s.sramCheck e.1 e.2.1 e.2.2 (some k.ctx)) s
  if mine.any fun e => e.2.2 = .ue then s' else f s'

/-- The scrubber reads one word; a word that nothing listed can be in error all the same. -/
def opSramScrub (t word : Nat) (found : ErrFound) (s : State) : State :=
  if s.stopped || !s.tileRuns t || 16384 ≤ word then s else s.sramCheck t word ((s.tile t).sramFound word found) none

/-! ## The words of an access -/

/-- Bytes of a space (R43). -/
def twSize (space : Nat) : Nat := if space = 0 then 131072 else if space = 1 then 32768 else 4096

/-- CTRL as it reads (R183). -/
def TmaSlot.ctrl (x : TmaSlot) : Nat := x.leaf + x.gen * 2 ^ 16 + b2n x.valid * 2 ^ 18 + x.len * 2 ^ 20

/-- A word of TMA space (R182). Where the slot's contents are unspecified, `free` stands for KEY, MASK, LEAF_REF and GEN;
`lost` says that VALID and LEN are unspecified too. Words 5 to 7, word 4 of any slot but an entry's first, and the reserved
bits of CTRL read 0 all the same (R6, R182, R183), and LEN is 0 while VALID is 0 (R184). -/
def Tile.tmaWord (t : Tile) (off : Nat) (free : Option Nat) (lost : Bool) : Nat :=
  let a := off / 64
  let x := t.slot a
  match off / 8 % 8 with
  | 0 => free.getD (x.key % 2 ^ 64)
  | 1 => free.getD (x.key / 2 ^ 64)
  | 2 => free.getD (x.mask % 2 ^ 64)
  | 3 => free.getD (x.mask / 2 ^ 64)
  | 4 =>
    if !t.isFirst a then 0
    else
      match free with
      | none => x.ctrl
      | some w =>
        let x := { x with leaf := bitsOf w 0 16, gen := bitsOf w 16 2 }
        let valid := bitOf w 18
        if lost then { x with valid := valid, len := if valid then bitsOf w 20 10 % (128 * t.span + 1) else 0 }.ctrl
        else { x with len := if x.valid then x.len else 0 }.ctrl
  | _ => 0

/-- A running op writes the word of a tile (R49): RELAY the bytes it delivers, TMA_EDIT the TMA and, on a pattern bank, the
SRAM, HUDDLE and the ops of a configuration nothing beside their load; every other op on the tile may write any word of SRAM
(DESIGN CHOICE, log entry 111). -/
def Op.writesWord (o : Op) (duty space off : Nat) : Bool :=
  if o.cls = Cls.STREAM then space = 0 && decide (o.num 3 < off + 8) && decide (off < o.num 3 + o.num 2)
  else if o.cls = Cls.SYNC then o.code = 3 && (space = 1 || (space = 0 && duty = 4))
  else space = 0

/-- A word of a tile that a running op or a load in progress writes: it reads as unspecified until that op's completion. -/
def State.twWritten (s : State) (t space off : Nat) : Bool :=
  let x := s.tile t
  x.loading.isSome || s.allOps.any fun p =>
    (p.2.st = .running || p.2.st = .executed) && p.2.tiles.contains t && p.2.writesWord x.duty space off

/-- A word as a window read returns it; SRAM and TMA whose contents are unspecified, and words that a running op writes, give
free values (R49, R60, R198, log entry 2). -/
def State.twWord (s : State) (t space off k : Nat) : Nat :=
  let x := s.tile t
  let w := (Config.freeWord (s.free + k)).toNat
  let written := s.twWritten t space off
  if space = 2 then s.tileWord (s.physical t) x off
  else if space = 0 then (if x.unspec || written then w else x.sram.rdLE off 8)
  else x.tmaWord off (if x.unspec || written then some w else none) (x.lost || written)

/-- One word written to KEY or MASK of a slot of an entry that is not valid. -/
def Tile.setTmaWord (t : Tile) (a j v : Nat) : Tile :=
  let x := t.slot a
  match j with
  | 0 => t.setSlot a { x with key := x.key / 2 ^ 64 * 2 ^ 64 + v }
  | 1 => t.setSlot a { x with key := x.key % 2 ^ 64 + v * 2 ^ 64 }
  | 2 => t.setSlot a { x with mask := x.mask / 2 ^ 64 * 2 ^ 64 + v }
  | _ => t.setSlot a { x with mask := x.mask % 2 ^ 64 + v * 2 ^ 64 }

/-- A window write of one word of TMA space (R191, R193). VALID of a tile whose contents are unspecified is the bit it last
held (R4). -/
def State.twTma (s : State) (t off v : Nat) (errs : List TwErr) (k : Nat) : State :=
  let a := off / 64
  let j := off / 8 % 8
  let x0 := s.tile t
  if 5 ≤ j || (j = 4 && !x0.isFirst a) then s
  else
    let s := match errs.find? fun e => e.k = k with
      | some e => s.checkSlot t a e.found (some e.bad)
      | none => s
    let x := s.tile t
    let live := (x.slot (x.firstOf a)).valid
    if j < 4 then
      if live then s.editDrop t a else s.modTile t fun y => y.setTmaWord a j v
    else if bitOf v 18 then
      if live then s.editDrop t a
      else s.modTile t fun y => (y.setSlot a { y.slot a with leaf := bitsOf v 0 16, gen := bitsOf v 16 2 }).validate a
    else if live then s.modTile t fun y => y.invalidate a
    else s.modTile t fun y => y.setSlot a { y.slot a with leaf := bitsOf v 0 16, gen := bitsOf v 16 2 }

/-- A written value is a reserved code of a tile's field (R7, R190). -/
def Tile.reservedCode (t : Tile) (f : Fld) (v : Nat) : Bool :=
  ((f.off = 0x90 || f.off = 0x98) && decide (128 * t.span ≤ v)) || f.rsv.bad v

/-- One field of a tile register under a full-width write, by its type (R32). -/
def Tile.fieldWrite (t : Tile) (f : Fld) (v : Nat) : Tile :=
  match f.ty with
  | .ro => t
  | .sc => t
  | .w1c => t.wr f (t.rd f - (t.rd f &&& v))
  | .w1s => t.wr f (t.rd f ||| v)
  | _ => if t.reservedCode f v then t else t.wr f v

/-- A window write of one tile register: while an image loads or an op runs R207 drops it and sets EDIT_DROP; a write of
TMA_ICURSOR starts a search. -/
def State.twReg (s : State) (t off v : Nat) : State :=
  let x := s.tile t
  let fs := fieldsAt tileRegRows off
  if (off = 0x80 || (0x90 ≤ off && off < 0x120)) && (x.st = .config || x.st = .busy) then
    s.modTile t fun y => y.wr TReg.TMA_STATUS.EDIT_DROP 1
  else
    let s := s.modTile t fun y => fs.foldl (fun y f => y.fieldWrite f (bitsOf v f.lo f.w)) y
    if off = 0x180 then opTmaIcursorWrite t (bitsOf v 0 10) [] s else s

/-- The words of a write take effect one after another in rising order of address: a write that covers TMA_IKEY7 and
TMA_ICURSOR searches with the new key (R203; DESIGN CHOICE, log entry 112). -/
def State.twStore (s : State) (a : TwAcc) (t : Nat) (errs : List TwErr) : State :=
  (List.range a.words).foldl (fun s k =>
    let off := a.off + 8 * k
    let v := nth a.data 0 k % 2 ^ 64
    if a.space = 0 then s.putSram t off (leBytes 8 v)
    else if a.space = 1 then s.twTma t off v errs k
    else s.twReg t off v) s

/-- What the read of word `k` of an SRAM access finds. -/
def TwAcc.sramErr (a : TwAcc) (x : Tile) (errs : List TwErr) (k : Nat) : ErrFound :=
  x.sramFound ((a.off + 8 * k) / 8) (((errs.find? fun e => e.k = k).map (·.found)).getD .none)

/-- The words of a read land in TW_DATA; the first uncorrectable SRAM word and every later one are unspecified. -/
def State.twLoad (s : State) (a : TwAcc) (t : Nat) (errs : List TwErr) : State :=
  let bad := if a.space = 0 then findPos (fun k => a.sramErr (s.tile t) errs k = .ue) (List.range a.words) else none
  let val := fun k =>
    if (match bad with
      | some b => decide (b ≤ k)
      | none => false) then (Config.freeWord (s.free + 8 + k)).toNat
    else s.twWord t a.space (a.off + 8 * k) k
  let s' := (List.range a.words).foldl (fun s k => s.wr (Reg.TW_DATA.DATA k) (val k)) s
  { s' with free := s.free + 16 }

/-! ## GO and completion -/

/-- The running access completes with an error code: BUSY, ERR, SEQ (R45). -/
def State.twEnd (s : State) (err : Nat) : State :=
  let s := (s.wr Reg.TW_STATUS.BUSY 0).wr Reg.TW_STATUS.ERR err
  { s.wr Reg.TW_STATUS.SEQ (s.rd Reg.TW_STATUS.SEQ + 1) with tw := none }

/-- An island that is gated, being gated, or not yet back: R48 names the first two; one that ramps up counts with them
(DESIGN CHOICE, log entry 113). -/
def State.darkIsland (s : State) (n : Nat) : Bool :=
  s.islSt n = Isl.DRAINING || s.islSt n = Isl.GATED || s.islSt n = Isl.UNGATING

/-- A tile with an op running or on deck, a load in progress, edit items queued, or a TMA_EDIT in flight that names it
(R48, R193). -/
def State.twBusy (s : State) (t : Nat) : Bool :=
  let x := s.tile t
  x.running.isSome || x.deck.isSome || x.loading.isSome || !x.edits.isEmpty || s.allOps.any fun p =>
    (p.2.st = .staged || p.2.st = .running) && p.2.cls = Cls.SYNC && p.2.code = 3 && p.2.tiles.contains t

/-- The error code that an access meets before it touches a word; 0 for none (R48). An access accepted before its island
began to drain completes (R540 step 2). -/
def State.twErr (s : State) (a : TwAcc) : Nat :=
  let t := s.tileKey a.tile
  if s.noTile a.tile then 1
  else if a.write && a.space != 2 && s.twBusy t then 2
  else if a.dark then 3
  else if a.off % 8 != 0 || twSize a.space < a.off + 8 * a.words then 4
  else 0

/-- A write of TW_CMD: its fields, then GO (R44, R47). -/
def opTwGo (w : Wr) (s0 : State) : State :=
  let s := s0.writeAt 0x2000008 w
  if s0.unreachable w.src 0x2000008 || !w.starts Reg.TW_CMD.GO then s
  else if s.on Reg.TW_STATUS.BUSY then s.wr Reg.TW_STATUS.REJECT 1
  else
    let acc : TwAcc :=
      { tile := s.rd Reg.TW_TARGET.TILE, space := s.rd Reg.TW_TARGET.SPACE, off := s.rd Reg.TW_TARGET.OFFSET,
        words := s.rd Reg.TW_CMD.WORDS, write := s.on Reg.TW_CMD.DIR,
        dark := s.darkIsland (s.tileIsland (s.tileKey (s.rd Reg.TW_TARGET.TILE))),
        data := (List.range 8).map fun k => s.rd (Reg.TW_DATA.DATA k) }
    { s.wr Reg.TW_STATUS.BUSY 1 with tw := some acc }

/-- The running access completes; on a held island it waits (R48, R49). -/
def opTwAccessDone (errs : List TwErr) (s : State) : State :=
  match s.tw with
  | none => s
  | some a =>
    let err := s.twErr a
    let t := s.tileKey a.tile
    if s.stopped || (err != 1 && s.heldTile t) then s
    else if err != 0 then s.twEnd err
    else if a.write then (s.twStore a t errs).twEnd 0
    else
      let found := if a.space = 0 then (List.range a.words).map (a.sramErr (s.tile t) errs) else []
      let s := (found.zip (List.range a.words)).foldl (fun s e => s.sramCheck t ((a.off + 8 * e.2) / 8) e.1 none) (s.twLoad a t errs)
      s.twEnd (if found.contains .ue then 5 else 0)

def execTwGo (w : Wr) (s : State) : Out := .next (opTwGo w s)
def execTwAccessDone (errs : List TwErr) (s : State) : Out := .next (opTwAccessDone errs s)
def execSramScrub (t word : Nat) (found : ErrFound) (s : State) : Out := .next (opSramScrub t word found s)

end Sys2Proof.Machine
end

