-- ==== Sys2Proof/Machine/Images.lean ====
section
/-! DEFINITION. Configuration and policy images: the checks of each duty, and what a load leaves in a tile (R60, R158, R166,
R206, R209 to R223, R247 to R260). -/

namespace Sys2Proof.Machine

/-! ## Settings common to every duty (R60) -/

/-- 128-bit slots of an entry at an image's width code. -/
def TileSeg.span (g : TileSeg) : Nat := 2 ^ g.width

def TmaEnt.fits (e : TmaEnt) (span : Nat) : Bool :=
  decide (e.addr * span + span ≤ 512) && decide (e.key < 2 ^ (128 * span)) && decide (e.mask < 2 ^ (128 * span)) &&
  decide (e.leaf < 65536) && decide (e.gen < 4)

/-- A segment whose SRAM bytes fit, whose entries fit the bank, and whose settings hold no reserved code. -/
def TileSeg.ok (g : TileSeg) : Bool :=
  decide (g.sramSize ≤ 131072) && decide (g.sram.length ≤ g.sramSize) && decide (g.width ≤ 2) &&
  decide (g.holeStride ≤ 3) && decide (g.iter ≤ 1) && decide (g.gen ≤ 3) && decide (1 ≤ g.outlLog2) &&
  decide (g.outlLog2 ≤ 15) && g.customSel.all (decide <| · ≤ 3) && decide (g.statsEn ≤ 1) && decide (g.role ≤ 5) &&
  g.pfSel.all (fun v => decide (v < 128 * g.span)) && g.entries.all (·.fits g.span)

/-- A duty-1 image for a group of `n` tiles (R60). -/
def Image.tensorOk (i : Image) (n : Nat) : Bool := i.segs.length = n && i.segs.all TileSeg.ok

def TileSeg.empty : TileSeg :=
  ⟨[], 0, 0, 0, 0, [], [], [], 0, 3, [0, 0, 0], 1, 0, 0, 0, 0, 0⟩
def Image.seg (i : Image) (pos : Nat) : TileSeg := nth i.segs TileSeg.empty pos

/-! ## Scoring images (R209 to R223) -/

/-- A feature descriptor from its 16 bytes read as a number (R210). -/
def Feat.ofBits (v : Nat) : Feat := ⟨bitsOf v 0 12, bitsOf v 12 3, bitOf v 15, bitsOf v 16 8, bitsOf v 32 32⟩
/-- A descriptor whose reserved bits are 0. -/
def featRsvOk (v : Nat) : Bool := bitsOf v 24 8 = 0 && decide (v < 2 ^ 64)
def ScorePlan.feats (p : ScorePlan) : List Feat := p.descs.map Feat.ofBits
def ScorePlan.leavesAt (p : ScorePlan) (pos : Nat) : LeafPlan := nth p.leaves ⟨0, 0, 0, 0⟩ pos

/-- Bytes of a feature's value and of one threshold (R210). -/
def Feat.size (f : Feat) : Nat := if f.ty = 1 || f.ty = 3 then 2 else 4
def Feat.count (f : Feat) : Nat := if f.wideBin then 255 else 15

/-- A stored value as an exact number; none for a NaN (R211). -/
def Feat.value (f : Feat) (bits : Nat) : Option Dy :=
  let flt := fun (m : FFmt) => match m.decode bits with
    | .nan => none
    | .inf neg => some (if neg then ⟨-1, 300⟩ else ⟨1, 300⟩)
    | .nzero => some Dy.zero
    | .fin d => some d
  match f.ty with
  | 0 => flt FFmt.f32
  | 1 => flt ⟨5, 10, 15, true⟩
  | 3 => some ⟨toSigned bits 16, 0⟩
  | _ => some ⟨toSigned bits 32, 0⟩

/-- Threshold or category `i` of a feature in a binner's SRAM image. -/
def Feat.entry (f : Feat) (sram : List Nat) (i : Nat) : Nat := leAt sram (f.ptr + f.size * i) f.size

/-- A descriptor and its table are well formed (R210, R211). A place of a category table that holds the missing code is an
unused one, wherever it stands (R212). -/
def Feat.ok (f : Feat) (sram : List Nat) : Bool :=
  decide (f.off < 4096) && f.off % f.size = 0 && decide (f.ty ≤ 4) && (f.ty != 4 || !f.wideBin) &&
  decide (f.nanBin ≤ if f.wideBin then 255 else 15) && decide (f.ptr + f.size * f.count ≤ 131072) &&
  (f.ty = 4 ||
    (List.range f.count).all (fun i => (f.value (f.entry sram i)).isSome) &&
    (List.range (f.count - 1)).all fun i =>
      match f.value (f.entry sram i), f.value (f.entry sram (i + 1)) with
      | some a, some b => Dy.lt a b
      | _, _ => false)

/-- The key fields that one named field takes (R214). -/
def KeyField.takes (k : KeyField) : List Nat := if k.enc = .t8 then [k.field, k.field + 1] else [k.field]

/-- The encoding suits the feature (R214). -/
def KeyField.suits (k : KeyField) (fs : List Feat) : Bool :=
  match fs[k.feat]? with
  | none => false
  | some f =>
    match k.enc with
    | .t4 => !f.wideBin
    | .t8 => f.wideBin
    | .c16 => f.ty = 4
    | .raw4 => !f.wideBin

/-- The mask bits that entries of a layout may set (R218). -/
def layoutMask (l : List KeyField) : Nat :=
  l.foldl (fun m k => k.takes.foldl (fun m f =>
    m ||| ((if k.enc = .c16 || k.enc = .raw4 then 0xFFFF else 0x7FFF) * 2 ^ (16 * f))) m) 0

/-- A layout of a bank with `fields` key fields (R209, R214). -/
def layoutOk (l : List KeyField) (fs : List Feat) (fields : Nat) : Bool :=
  let used := l.flatMap KeyField.takes
  decide (1 ≤ used.length) && decide (used.length ≤ 32) && used.eraseDups.length = used.length &&
  used.all (fun f => decide (f < fields)) && l.all (·.suits fs)

/-- The trees that a bank tile holds, with their numbers. -/
def ScorePlan.treesAt (p : ScorePlan) (pos : Nat) : List (Nat × TreePlan) :=
  ((List.range p.trees.length).zip p.trees).filter fun t => t.2.banks.contains pos

/-- The bank holds more than one tree (R221). -/
def ScorePlan.isShared (p : ScorePlan) (pos : Nat) : Bool := decide (1 < (p.treesAt pos).length)

/-- The slot number that key assembly presents for a tree: on a shared bank only (R218, R221). -/
def ScorePlan.slotAt (p : ScorePlan) (t : TreePlan) (pos : Nat) : Option Nat := if p.isShared pos then t.slot else none

/-- The place of a bank in the group of the split tree or automaton it serves, 0 when not split (R243, R270). -/
def splitPos (groups : List (List Nat)) (pos : Nat) : Nat :=
  match groups.find? fun g => decide (1 < g.length) && g.contains pos with
  | some g => (findPos (fun b => decide (b = pos)) g).getD 0
  | none => 0

/-- The key bits by which a shared bank's row groups select a slot (R221). -/
def TileSeg.groupSlot (g : TileSeg) (grp : Nat) : Nat := (nth g.pf (0, 0, 0) grp).1

/-- One bank tile of a plan (R209, R218, R221 to R223). -/
def Image.bankOk (i : Image) (p : ScorePlan) (pos : Nat) : Bool :=
  let g := i.seg pos
  let ts := p.treesAt pos
  let fields := 8 * g.span
  let shared := p.isShared pos
  let lv := p.leavesAt pos
  let leafOk := fun (e : TmaEnt) => decide (e.leaf % 2 ^ 15 < if bitOf e.leaf 15 then lv.count1 else lv.count0)
  decide (ts.length ≤ 16) && decide (lv.count0 ≤ 512) && decide (lv.count1 ≤ 512) &&
  /- TMA_PF_SEL selects the four bits of the last field that carry the slot (R221) -/
  (!shared || (List.range 4).all fun k => nth g.pfSel 0 k = 16 * (fields - 1) + k) &&
  (!shared || ts.all (fun t => t.2.banks.length = 1 && t.2.slot.isSome)) &&
  (!shared || ((ts.filterMap (·.2.slot)).eraseDups.length = ts.length && ts.all fun t => decide (t.2.slot.getD 0 < 16))) &&
  ts.all (fun t => layoutOk t.2.layout p.feats (if shared then fields - 1 else fields)) &&
  g.entries.all fun e =>
    leafOk e &&
    (if shared then
      let slot := g.groupSlot (e.addr * g.span / 32)
      (nth g.pf (0, 0, 0) (e.addr * g.span / 32)).2.1 = 15 &&
      (match ts.find? fun t => t.2.slot = some slot with
      | some t => e.mask &&& (layoutMask t.2.layout ||| 0xFFFF * 2 ^ (16 * (fields - 1))) = e.mask
      | none => false)
    else ts.all fun t => e.mask &&& layoutMask t.2.layout = e.mask)

/-- A duty-3 image for a group of `n` tiles (R209, R220). -/
def Image.scoreOk (i : Image) (n : Nat) : Bool :=
  i.segs.length = n && i.segs.all TileSeg.ok &&
  match i.score with
  | none => false
  | some p =>
    decide (1 ≤ p.trees.length) && decide (p.trees.length ≤ 16384) && decide (1 ≤ p.outputs) && decide (p.outputs ≤ 8) &&
    decide (p.link ≤ 3) && p.base.length = p.outputs && decide (1 ≤ p.descs.length) && decide (p.descs.length ≤ 1024) &&
    p.descs.all featRsvOk && p.feats.all (·.ok (i.seg p.binner).sram) && decide (p.ruleBanks.length ≤ 4) &&
    decide (1 ≤ p.replicas) && decide (p.replicas ≤ 16) && decide (1 ≤ p.segments) && decide (p.segments ≤ 16) &&
    decide (64 ≤ p.stride) && decide (p.stride ≤ 4096) && p.stride % 64 = 0 &&
    p.trees.all (fun t => decide (t.depth ≤ 12) && decide (1 ≤ t.banks.length) && decide (t.banks.length ≤ 64) &&
      t.banks.all fun b => decide (b < n)) &&
    (p.trees.flatMap (·.banks)).eraseDups.all (i.bankOk p) &&
    p.ruleBanks.all (fun b => decide (b < n) && (i.seg b).iter = 1 && layoutOk p.ruleLayout p.feats (8 * (i.seg b).span))

/-! ## Pattern images (R249 to R260) -/

/-- The mask bits that a pattern entry may set (R249). -/
def patMask : Nat := 0xFFFF + 0x3F * 2 ^ 16 + 0x3FF * 2 ^ 32

/-- One automaton's maps and actions in one copy of one bank (R250, R252, R255). -/
def AutPlan.copyOk (a : AutPlan) (sram : List Nat) (base : Nat) : Bool :=
  let rows := 0x10000 - a.acceptBase
  decide (a.mapOff + 256 ≤ copySize) && decide (a.actOff + 8 * rows ≤ copySize) &&
  (List.range 256).all (fun x => decide (nth sram 0 (base + a.mapOff + x) ≤ 62)) &&
  (List.range rows).all fun r =>
    let w := leAt sram (base + a.actOff + 8 * r) 8
    bitsOf w 8 8 != 0 || !bitOf w 1

/-- The mask of an entry is that of one of the entry kinds of R251. -/
def patKindOk (mask : Nat) : Bool :=
  let state := bitsOf mask 0 16
  let cls := bitsOf mask 16 16
  bitsOf mask 32 16 = 0x3FF && decide (mask < 2 ^ 48) &&
  ((state = 0xFFFF && [0, 0x20, 0x30, 0x38, 0x3C, 0x3E, 0x3F].contains cls) || (state = 0 && [0, 0x3F].contains cls))

/-- The key of a search (R249). -/
def patKey (state cls aut : Nat) : Nat := state + cls * 2 ^ 16 + aut * 2 ^ 32

/-- Per bank of an automaton that holds a matching entry of generation `gen`, the next state of its winner: the longest mask,
then the lowest address (R186, R253). -/
def Image.patHits (i : Image) (a : AutPlan) (gen state cls : Nat) : List Nat :=
  a.banks.filterMap fun b =>
    ((i.seg b).entries.foldl (fun (best : Option TmaEnt) e =>
      if e.gen != gen || (e.key ^^^ patKey state cls a.id) &&& e.mask != 0 then best
      else
        match best with
        | none => some e
        | some w => let n := fun (x : TmaEnt) => popCount 128 x.mask
          if n w < n e || (n w = n e && decide (e.addr < w.addr)) then some e else some w) none).map (·.leaf)

/-- The states reached from those of `todo`, beside those of `seen`, over the classes that bytes map to. -/
def Image.patReach (i : Image) (a : AutPlan) (gen : Nat) (classes : List Nat) : Nat → List Nat → List Nat → List Nat
  | 0, _, seen => seen
  | _ + 1, [], seen => seen
  | n + 1, s :: todo, seen =>
    let next := ((classes.flatMap fun c => (i.patHits a gen s c).take 1).eraseDups).filter fun x => !seen.contains x
    i.patReach a gen classes n (todo ++ next) (seen ++ next)

/-- For every reachable state and class, END included, exactly one bank of the automaton's group holds a matching entry
(R253). -/
def Image.patCovers (i : Image) (a : AutPlan) (gen base : Nat) : Bool :=
  let map := (i.seg (nth a.banks 0 0)).sram
  let classes := ((List.range 256).map fun x => nth map 0 (base + a.mapOff + x)).eraseDups
  (i.patReach a gen classes 65537 [0] [0]).all fun s => (63 :: classes).all fun c => (i.patHits a gen s c).length = 1

/-- A duty-4 image for a group of `n` tiles (R249 to R256, R259, R260), apart from its automaton IDs' other holders. -/
def Image.patOk (i : Image) (n : Nat) : Bool :=
  i.segs.length = n && i.segs.all TileSeg.ok &&
  match i.pat with
  | none => false
  | some p =>
    let gen := fun b => (i.seg b).gen
    decide (1 ≤ p.auts.length) && (p.auts.map (·.id)).eraseDups.length = p.auts.length &&
    p.auts.all (fun a => decide (a.id < 1024) && decide (1 ≤ a.banks.length) && decide (a.banks.length ≤ 256) &&
      decide (0xF800 ≤ a.acceptBase) && decide (a.acceptBase ≤ 0xFFFF) && a.banks.all (fun b =>
        decide (b < n) && (i.seg b).width = 0 && gen b = gen (nth a.banks 0 0) && a.copyOk (i.seg b).sram p.copyBase0 &&
        (p.gen1.isNone || a.copyOk (i.seg b).sram p.copyBase1)) &&
      i.patCovers a (gen (nth a.banks 0 0)) p.copyBase0 &&
      match p.gen1 with
      | some g => i.patCovers a g p.copyBase1
      | none => true) &&
    decide (p.copyBase0 + copySize ≤ 131072) && decide (p.copyBase1 + copySize ≤ 131072) &&
    (decide (p.copyBase0 + copySize ≤ p.copyBase1) || decide (p.copyBase1 + copySize ≤ p.copyBase0)) &&
    (List.range n).all fun b =>
      let held := p.auts.filter fun (a : AutPlan) => a.banks.contains b
      decide (1 ≤ held.length) && decide (held.length ≤ 8) && (p.gen1.all fun g => decide (g < 4) && g != gen b) &&
      (i.seg b).entries.all fun e => e.mask &&& patMask = e.mask && patKindOk e.mask && held.any fun a => a.id = bitsOf e.key 32 10

/-- Some automaton ID of the image is held under another CRC by tiles of another configuration: loaded or loading, and not
among the tiles that this load configures anew (R259). -/
def State.autClash (s : State) (i : Image) (mine : List Nat) : Bool :=
  let ids : List Nat := match i.pat with
    | some p => p.auts.map AutPlan.id
    | none => []
  s.tiles.any fun t => !mine.contains t.1 &&
    ([if t.2.duty = 4 && t.2.st != .idle then t.2.cfg else none, t.2.loading.bind fun l => if l.2.1 = 4 then some l.1 else none].any
      fun c => match c.bind (mapGet? s.configs) with
        | some j => j.crc != i.crc && (match j.pat with
          | some p => p.auts.any fun (a : AutPlan) => ids.contains a.id
          | none => false)
        | none => false)

/-! ## Policy images (R158, R166) -/

/-- What LOAD_POLICY's buffer check asks of an image for a group of `n` tiles. -/
def State.policyOk (s : State) (i : Image) (n : Nat) : Bool :=
  i.scoreOk n && decide (i.kind ≤ 1) && decide (i.gen ≤ 3) &&
  (match i.score with
  | some p => p.descs.length = 16 && p.feats.all (fun f => f.ty = 2) && p.outputs = 8 && (p.link = 0 || p.link = 2)
  | none => false) &&
  (i.kind = 0 || (i.segs.all (fun g => decide (g.entries.length ≤ 256)) && i.gen != s.rd Reg.POLICY_CTRL.ACTIVE_GEN))

/-- The image passes the checks of a duty for a group of `n` tiles, `mine` those that it would configure. -/
def State.imageOk (s : State) (duty : Nat) (i : Image) (n : Nat) (mine : List Nat) : Bool :=
  match duty with
  | 1 => i.tensorOk n
  | 2 => s.policyOk i n
  | 3 => i.scoreOk n
  | 4 => i.patOk n && !s.autClash i mine
  | _ => true

/-! ## What a load leaves in a tile (R60, R166, R191) -/

/-- An entry written and validated under a generation. -/
def Tile.putEntry (t : Tile) (e : TmaEnt) (gen : Nat) : Tile :=
  let n := t.span
  let t := (List.range n).foldl (fun t u =>
    t.setSlot (e.addr * n + u) { TmaSlot.empty with key := bitsOf e.key (128 * u) 128, mask := bitsOf e.mask (128 * u) 128 }) t
  (t.setSlot (e.addr * n) { t.slot (e.addr * n) with leaf := e.leaf, gen := gen, valid := false, len := 0 }).validate (e.addr * n)

def Tile.setMany (t : Tile) (l : List (Fld × Nat)) : Tile := l.foldl (fun t p => t.wr p.1 p.2) t

/-- The settings of a segment. -/
def Tile.settings (t : Tile) (g : TileSeg) (auts treePos autPos : Nat) : Tile :=
  let t := t.setMany [(TReg.TMA_CFG.WIDTH, g.width), (TReg.TMA_CFG.HOLE_STRIDE, g.holeStride), (TReg.TMA_CFG.ITER, g.iter),
    (TReg.TMA_GEN.ACTIVE, g.gen), (TReg.CONV_CFG.OUTL_LOG2, g.outlLog2), (TReg.CONV_CFG.CUSTOM_SEL0, nth g.customSel 0 0),
    (TReg.CONV_CFG.CUSTOM_SEL1, nth g.customSel 0 1), (TReg.CONV_CFG.CUSTOM_SEL2, nth g.customSel 0 2),
    (TReg.CONV_CFG.STATS_EN, g.statsEn), (TReg.SCORE_TILE.ROLE, g.role), (TReg.SCORE_TILE.TREES, g.trees),
    (TReg.SCORE_TILE.REPLICA, g.replica), (TReg.SCORE_TILE.SEGMENT, g.segment), (TReg.SCORE_TILE.FIRST_TREE, g.firstTree),
    (TReg.SCORE_TILE.GROUP_POS, treePos), (TReg.PAT_TILE.GROUP_POS, autPos), (TReg.PAT_TILE.AUTOMATA, auts)]
  let t := (List.range 8).foldl (fun t k =>
    t.wr (nth [TReg.TMA_PF_SEL0.SEL0, TReg.TMA_PF_SEL0.SEL1, TReg.TMA_PF_SEL0.SEL2, TReg.TMA_PF_SEL0.SEL3,
      TReg.TMA_PF_SEL1.SEL4, TReg.TMA_PF_SEL1.SEL5, TReg.TMA_PF_SEL1.SEL6, TReg.TMA_PF_SEL1.SEL7] TReg.TMA_PF_SEL0.SEL0 k)
      (nth g.pfSel 0 k)) t
  (List.range 16).foldl (fun t k =>
    let v := nth g.pf (0, 0, 0) k
    t.setMany [(TReg.TMA_PF.VALUE k, v.1), (TReg.TMA_PF.MASK k, v.2.1), (TReg.TMA_PF.OFF k, v.2.2)]) t

/-- A configuration load apart from its entries: every entry emptied, SRAM, settings, and the copies of a pattern bank. -/
def Tile.load (t : Tile) (i : Image) (cfg pos duty : Nat) : Tile :=
  let g := i.seg pos
  let auts := match i.pat with
    | some p => count (fun (a : AutPlan) => a.banks.contains pos) p.auts
    | none => 0
  let t := { t with sram := Memory.wrBytes [] 0 g.sram, badWords := [], tma := [], unspec := false, lost := false, cfg := some cfg, pos := pos, duty := duty,
                    staged := none,
                    copy0 := i.pat.map fun _ => g.gen, copy1 := i.pat.bind (·.gen1), inUse := 0 }
  let t := t.settings g auts (splitPos ((i.score.map fun p => p.trees.map (·.banks)).getD []) pos)
    (splitPos ((i.pat.map fun p => p.auts.map (·.banks)).getD []) pos)
  if duty = 2 then t.wr TReg.TMA_GEN.ACTIVE i.gen else t

/-- The entries of an image written in order, each slot checked before its write; a write that reaches a valid entry is
dropped, and an error that faults the tile's context abandons the load (R191, R198, R205). -/
def State.putEntries (s : State) (t : Nat) (gen : TmaEnt → Nat) (errs : List SlotErr) (es : List TmaEnt) : State :=
  es.foldl (fun s e =>
    if (s.tile t).loading.isNone then s
    else
      let n := (s.tile t).span
      let first := e.addr * n
      let s := (span first n).foldl (fun s a => match errs.find? fun r => r.slot = a with
        | some r => s.checkSlot t a r.found (some r.bad)
        | none => s) s
      if (s.tile t).loading.isNone then s
      else if ((s.tile t).slot first).valid then (span first n).foldl (fun s a => s.editDrop t a) s
      else s.modTile t fun x => x.putEntry e (gen e)) s

/-- What a STAGE load does first on every POLICY bank of its dies: every entry of another generation than the active one is
invalidated, and with it any image staged earlier (R166). -/
def Tile.unstage (t : Tile) (active : Nat) : Tile :=
  { t with tma := t.tma.map fun e => if e.2.gen = active then e else (e.1, { e.2 with valid := false, len := 0 })
           staged := none }

/-- The leaves of a STAGE load on a policy tile, into the inactive region (R166). -/
def Tile.stage (t : Tile) (i : Image) (cfg pos : Nat) (p : ScorePlan) : Tile :=
  let g := i.seg pos
  let t := { t with staged := some cfg }
  let lv := p.leavesAt pos
  let put := fun (t : Tile) (b n : Nat) => { t with sram := t.sram.wrBytes b ((g.sram.drop b).take (2 * p.outputs * n)) }
  match g.entries with
  | [] => t
  | e :: _ => if bitOf e.leaf 15 then put t lv.base1 lv.count1 else put t lv.base0 lv.count0

end Sys2Proof.Machine
end

