-- ==== Sys2Proof/Machine/FrontEnd.lean ====
section
/-! DEFINITION. The front end: the submission ring, the checks of descriptors and buffers, staging, dispatch, completion,
timeouts, and the life of a context (R294 to R333). -/

namespace Sys2Proof.Machine

/-! ## The submission ring (R298, R299) -/

def State.setFe (s : State) (f : FrontEnd → FrontEnd) : State := { s with fe := f s.fe }

/-- A write of SUBQ_CTRL: an enable samples the ring and moves HEAD to TAIL, a disable stops fetch. -/
def opSubqCtrl (w : Wr) (s0 : State) : State :=
  let s := s0.writeAt Reg.SUBQ_CTRL.EN.off w
  if !s.on Reg.SUBQ_CTRL.EN then s.setFe fun f => { f with on := false }
  else if s0.on Reg.SUBQ_CTRL.EN then s
  else
    (s.setFe fun f => { f with on := true, base := 64 * s.rd Reg.SUBQ_BASE.ADDR, sizeLog2 := s.rd Reg.SUBQ_CTRL.SIZE_LOG2 }).wr
      Reg.SUBQ_HEAD.HEAD (s.rd Reg.SUBQ_TAIL.TAIL)

def opSubqTailWrite (w : Wr) (s0 : State) : State :=
  let s := s0.writeAt Reg.SUBQ_TAIL.TAIL.off w
  if s.fe.on && s.ringOver then s.wr Reg.FE_STATUS.RING_ERR 1 else s

/-! ## Descriptors (R300 to R302) -/

/-- A descriptor as its 64 bytes hold it: the fields, and whether a check of R300 fails. -/
def descOf (bs : List Nat) : Desc × Bool :=
  let w0 := leAt bs 0 8
  let loc : Loc := ⟨!bitOf w0 14, leAt bs 0x10 8⟩
  let len := leAt bs 0x18 4
  let bad := decide (2 ^ 15 ≤ w0) || leAt bs 0x10 8 % 64 != 0 || len % 16 != 0 || decide (len < 48) || decide (16777216 < len) ||
    decide (2 ^ 12 ≤ leAt bs 0x1C 4) || (bs.drop 0x28).any (· != 0)
  (⟨bitsOf w0 0 12, leAt bs 8 8, bitOf w0 12, bitOf w0 13, bitsOf (leAt bs 0x1C 4) 0 12, leAt bs 0x20 8, loc, len⟩, bad)

/-- The LAST_DENY_SRC code of a fetch (R489). -/
def denyFetch := 0

def State.headOn (s : State) : State := s.wr Reg.SUBQ_HEAD.HEAD (s.rd Reg.SUBQ_HEAD.HEAD + 1)

/-- The next descriptor, if the front end is to read one. -/
def State.descAddr? (s : State) : Option Nat :=
  if s.stopped || !s.valid || s.on Reg.FIT_STATUS.UNFIT || !s.fe.on || s.fe.desc.isSome || s.ringCount = 0 || s.ringOver then none
  else some (s.fe.base + 64 * (s.rd Reg.SUBQ_HEAD.HEAD % 2 ^ s.fe.sizeLog2))

/-- The checks of codes 1 to 3 of a descriptor of an ACTIVE context: the failing code, if any. -/
def State.descCode (s : State) (d : Desc) (bad : Bool) : Option Nat :=
  if (match (s.ctx d.ctx).lastSeq with
    | some q => decide (d.seq ≤ q)
    | none => false) then some 1
  else if d.wait && decide ((s.ctx d.ctx).rank ≤ (s.ctx d.waitCtx).rank) then some 2
  else if bad then some 3
  else none

/-- The next descriptor read and checked. A refused or failed read consumes nothing (log entry 54). -/
def opDescriptorCheck (hostErr : Bool) (s : State) : State :=
  match s.descAddr? with
  | none => s
  | some a =>
    if !s.windowAdmits a 64 false then s.deny a denyFetch
    else if hostErr then s
    else
      let (d, bad) := descOf (s.hostMem.rdBytes a 64)
      let x := s.ctx d.ctx
      let s := s.headOn
      if x.st != .active then s.note Ev.DESC_SKIPPED 7 feIsland (some d.ctx) [(8, d.seq), (1, x.st.code)]
      else
        match s.descCode d bad with
        | some c => s.parseFail d.ctx d.seq c 0 0
        | none => s.setFe fun f => { f with desc := some d }

/-! ## Buffers (R305 to R318) -/

/-- An op's words as they stand in a buffer. -/
structure RawOp where
  off : Nat
  w0 : Nat
  w1 : Nat
  w2 : Nat
  w3 : Nat
  slots : List Slot
  deriving DecidableEq, Repr

def RawOp.id (o : RawOp) : Nat := bitsOf o.w0 0 16
def RawOp.cls (o : RawOp) : Nat := bitsOf o.w0 16 4
def RawOp.code (o : RawOp) : Nat := bitsOf o.w0 20 8
def RawOp.npred (o : RawOp) : Nat := bitsOf o.w0 28 3
def RawOp.units (o : RawOp) : Nat := bitsOf o.w0 40 8
def RawOp.noper (o : RawOp) : Nat := bitsOf o.w0 48 8
def RawOp.preds (o : RawOp) : List Nat := (List.range o.npred).map fun p => bitsOf o.w1 (16 * p) 16
def RawOp.accInit (o : RawOp) : Nat := bitsOf o.w2 0 2

/-- The ops of a buffer from byte `off`: none where they do not fill it exactly. -/
def walkOps (bs : List Nat) : Nat → Nat → Option (List RawOp)
  | 0, off => if off = bs.length then some [] else none
  | n + 1, off =>
    let w0 := leAt bs off 8
    let units := bitsOf w0 40 8
    if decide (bs.length < off + 32) || decide (units < 2) || decide (bs.length < off + 16 * units) then none
    else
      let slots := (List.range (units - 2)).map fun i => (leAt bs (off + 32 + 16 * i) 8, leAt bs (off + 40 + 16 * i) 8)
      (walkOps bs n (off + 16 * units)).map
        (⟨off, w0, leAt bs (off + 8) 8, leAt bs (off + 16) 8, leAt bs (off + 24) 8, slots⟩ :: ·)

/-- The buffer header of R306 holds. -/
def headerOk (bs : List Nat) (len : Nat) : Bool :=
  leAt bs 0 2 = 1 && leAt bs 2 2 = 0 && decide (1 ≤ leAt bs 4 4) && decide (leAt bs 4 4 ≤ 16384) && leAt bs 8 4 = len &&
  ((bs.drop 0x10).take 16).all (· = 0) && leAt bs 0xC 4 = crc32 (patchBytes bs 0xC [0, 0, 0, 0])

/-- Check 4 of R317 on one op header (log entry 51). -/
def RawOp.headOk (o : RawOp) : Bool :=
  (opTable o.cls o.code).isSome && decide (o.npred ≤ 4) && bitsOf o.w0 33 7 = 0 && bitsOf o.w0 56 8 = 0 &&
  o.units = 2 + o.noper && o.w3 = 0 && o.w1 / 2 ^ (16 * o.npred) = 0 &&
  (if o.cls = Cls.TENSOR && o.code = 0 then decide (o.w2 < 4) else o.w2 = 0)

/-- The ops left when ops whose predecessors are all gone are taken away, again and again: a cycle's ops stay. -/
def peel (os : List RawOp) : Nat → List Nat → List RawOp
  | 0, gone => os.filter fun o => !gone.contains o.id
  | n + 1, gone =>
    let more := os.filter fun o => !gone.contains o.id && o.preds.all gone.contains
    if more.isEmpty then os.filter fun o => !gone.contains o.id else peel os n (gone ++ more.map RawOp.id)

/-- The descendants of the ops in a set. -/
def descOps (os : List Op) : Nat → List Nat → List Nat → List Nat
  | 0, _, acc => acc
  | n + 1, front, acc =>
    let more := (os.filter fun (o : Op) => !acc.contains o.id && o.preds.any front.contains).map (·.id)
    if more.isEmpty then acc else descOps os n more (acc ++ more)
def descendants (os : List Op) (id : Nat) : List Nat := descOps os os.length [id] []

/-- The op's operands fit its table: null where R312 wants it. -/
def nullsOk (cls code accInit : Nat) (os : List Opnd) : Bool :=
  !(cls = Cls.TENSOR && code = 0) || ((accInit = 2) != isNull os 4)

/-- An op of a buffer under its checks: where it stands, its record with operands as read, a reserved bit seen. -/
structure Cand where
  off : Nat
  op : Op
  bad : Bool
  deriving DecidableEq, Repr

/-- The op that a header and its operands make. -/
def RawOp.toOp (o : RawOp) (opnds : List Opnd) : Op :=
  { id := o.id, cls := o.cls, code := o.code, preds := o.preds, fence := bitOf o.w0 31, noSteal := bitOf o.w0 32,
    accInit := o.accInit, opnds := opnds, st := .waiting, det := false, step := 0, slot := 0, t0 := 0, paused := 0,
    limit := 0, work := .none, fetch := ⟨[], [], 0⟩, early := [], conv := [], result := [] }

def RawOp.cand (o : RawOp) : Option Cand :=
  match opTable o.cls o.code with
  | none => none
  | some ks =>
    match parseOpnds ks o.slots with
    | none => none
    | some (os, bad) => if nullsOk o.cls o.code o.accInit os then some ⟨o.off, o.toOp os, bad⟩ else none

def Op.numIs (o : Op) (i v : Nat) : Bool := numAt o.opnds i = some v
def Op.refs (o : Op) : List Ref := o.opnds.filterMap fun x => match x with
  | .ref r => some r
  | _ => none

def Op.isScore (o : Op) : Bool := o.cls = Cls.FILTAS
def Op.isMove (o : Op) : Bool := o.cls = Cls.STREAM && o.code = 0
def Op.isHuddle (o : Op) : Bool := o.cls = Cls.SYNC && o.code = 4

def readOnlySlot (slotted next : Bool) : Bool := slotted && !next

/-- R80, R95, R154, R157 and R290 on one handle operand. -/
def refRule (k : OpdKind) (r : Ref) : Bool :=
  let wr := k.access.2 || r.write
  (!wr || !readOnlySlot r.slotted r.next) &&
  match r.tensor with
  | none => true
  | some t =>
    (!wr || !(1 ≤ t.fmt && t.fmt ≤ 3)) && (!(1 ≤ t.fmt && t.fmt ≤ 3) || t.role = 0) &&
    match t.managed with
    | none => true
    | some m =>
      decide (t.patches ≤ 8388608) && !(4 ≤ t.dflt && t.dflt < 7 && t.budget < 64) &&
      decide (t.budget * t.patches / 64 ≤ m.poolCap) && !m.dec.loc.host &&
      (!wr || !(readOnlySlot m.tags.slotted m.tags.next || readOnlySlot m.pool.slotted m.pool.next))

def Op.inHost (o : Op) (i : Nat) : Bool := match o.ref? i with
  | some r => r.loc.host
  | none => false
/-- Operand `i` is a handle into device memory, or null. -/
def Op.inDevice (o : Op) (i : Nat) : Bool := !o.inHost i

/-- R230, R233 and R235 on a SCORE op among the ops of its buffer. -/
def scoreRule (os : List Op) (o : Op) : Bool :=
  let same := os.filter fun p => p.isScore && p.locOf 1 = o.locOf 1
  let key := fun (p : Op) => (p.num 5, p.num 7)
  let strip := fun (p : Op) => (List.range p.opnds.length).filterMap fun i =>
    if i = 0 || i = 5 || i = 7 then none else some (p.opnd i)
  o.inDevice 1 && o.inHost 12 = (o.num 10 = 0) &&
  same.all (fun p => strip p = strip o) && same.length = (o.num 6 + 1) * (o.num 8 + 1) &&
  (same.map key).eraseDups.length = same.length && (o.num 9 = 0 || (o.num 6 + 1) % 2 = 0)

/-- What an op takes from and adds to: (pair, semaphore), 0 FULL and 1 EMPTY (R343, R345). -/
def Op.takes (o : Op) : Option (Nat × Nat) :=
  match o.pair? with
  | none => none
  | some p => if o.isMove then some (p, if o.num 5 = 1 then 1 else 0) else if o.code = 3 then some (p, o.num 2) else none
def Op.adds (o : Op) : Option (Nat × Nat) :=
  match o.pair? with
  | none => none
  | some p => if o.isMove then some (p, if o.num 5 = 1 then 0 else 1) else if o.code = 2 then some (p, o.num 2) else none
def Op.depth (o : Op) : Nat := if o.isMove then o.num 7 else o.num 1

/-- R347 on an op that names a pair; a semaphore to which nothing adds fails its taker (log entry 36). -/
def pairRule (os : List Op) (o : Op) : Bool :=
  match o.pair? with
  | none => true
  | some p =>
    os.all (fun q => q.pair? != some p || q.depth = o.depth) &&
    (!o.isMove || holds (numAt o.opnds 3) fun b => b % o.num 4 = 0) &&
    match o.takes with
    | none => true
    | some t =>
      let ds := descendants os o.id
      os.any fun q => q.adds = some t && !ds.contains q.id

/-- R355 on a keyed HUDDLE. -/
def huddleRule (os : List Op) (o : Op) : Bool :=
  o.num 1 = 0xFFFF ||
  (let same := os.filter fun p => p.isHuddle && p.num 1 = o.num 1
   let ds := descendants os o.id
   same.length = o.num 2 && same.all (fun p => p.num 2 = o.num 2 && p.num 3 = o.num 3) &&
   (same.map fun p => p.num 0 % 16).eraseDups.length = same.length && same.all fun p => !ds.contains p.id)

/-- R422 and R423 on a collective. -/
def collRule (o : Op) : Bool :=
  let reduces := o.code != 1
  let pay := o.num 2
  let ef := fun i nx => match o.ref? i with
    | some r => r.slotted && r.next = nx && (!nx || r.write)
    | none => false
  (reduces || o.num 8 = 0) && (pay = 0 || pay = 5 || pay = 6 || pay = 9) &&
  (if pay = 0 && reduces then ef 12 false && ef 13 true else isNull o.opnds 12 && isNull o.opnds 13) &&
  (o.num 8 != 2 || !isNull o.opnds 11) && decide (o.num 5 < o.num 4)

/-- The rules of code 11 of R317 on one op of a buffer. -/
def State.rulesOk (s : State) (imgs : List (Nat × Image)) (os : List Op) (o : Op) : Bool :=
  (match o.group? with
  | some g => s.groupOk g
  | none => true) &&
  (((opTable o.cls o.code).getD []).zip o.opnds).all (fun p => match p.2 with
    | .ref r => refRule p.1 r
    | _ => true) &&
  shapesOk o.cls o.code o.accInit o.opnds && pairRule os o &&
  (!o.isScore || scoreRule os o) && (!o.isHuddle || huddleRule os o) && (o.cls != Cls.COLLECTIVE || collRule o) &&
  (!o.isMove || o.num 0 = 0 || (o.inDevice 1 && o.inDevice 8 && o.inDevice 9)) &&
  (o.cls != Cls.PATTERN || o.inDevice 1) &&
  (!(o.cls = Cls.SYNC && o.code = 6) || o.num 0 != 0) &&
  (!(o.cls = Cls.SYNC && o.code = 2) ||
    match imgs.find? fun e => e.1 = (o.locOf 1).addr with
    | some e => s.policyOk e.2 (groupTiles (o.num 0)).length
    | none => false)

/-- A failed check: code, byte offset and OP_ID of the failing op. -/
abbrev Failure := Nat × Nat × Nat

def failAt {α : Type} (code : Nat) (off id : α → Nat) (l : List α) (ok : α → Bool) : Option Failure :=
  (l.find? fun x => !ok x).map fun x => (code, off x, id x)
def firstOf : List (Option Failure) → Option Failure
  | [] => none
  | some f :: _ => some f
  | none :: rest => firstOf rest

/-- Checks 3 to 12 of R317 on the bytes of a buffer: the first failure, or its ops. -/
def State.checkBuffer (s : State) (imgs : List (Nat × Image)) (c : Nat) (bs : List Nat) (len : Nat) :
    Except Failure (List Op) :=
  if bs.length != len || !headerOk bs len then .error (3, 0, 0)
  else
    match walkOps bs (leAt bs 4 4) 32 with
    | none => .error (3, 0, 0)
    | some raws =>
      let ids := raws.map RawOp.id
      let rawFail := fun code ok => failAt code RawOp.off RawOp.id raws ok
      let stuck := peel raws raws.length []
      match firstOf [rawFail 4 RawOp.headOk, rawFail 5 (fun o => count (· = o.id) ids = 1),
          rawFail 6 (fun o => o.preds.all fun p => ids.contains p && p != o.id),
          rawFail 7 (fun o => !stuck.any fun p => p.id = o.id), rawFail 8 (fun o => o.cand.isSome)] with
      | some f => .error f
      | none =>
        let cands := raws.filterMap RawOp.cand
        let fail := fun code ok => failAt code Cand.off (fun x => x.op.id) cands ok
        let reloc := fun (x : Cand) => s.relocAll c x.op.cls x.op.code x.op.accInit x.op.opnds
        match firstOf [fail 9 (fun x => !x.bad && opndsOk x.op.cls x.op.code x.op.accInit x.op.opnds),
            fail 10 (fun x => (reloc x).isSome)] with
        | some f => .error f
        | none =>
          let done := cands.map fun x => { x with op := { x.op with opnds := (reloc x).getD [] } }
          let ops := done.map (·.op)
          match firstOf [failAt 11 Cand.off (fun x => x.op.id) done (fun x => s.rulesOk imgs ops x.op),
              failAt 12 Cand.off (fun x => x.op.id) done (fun x => !kernelOnly x.op.cls x.op.code || c = 0)] with
          | some f => .error f
          | none => .ok ops

/-- A buffer that passed its checks is accepted (R304, R331). -/
def State.acceptBuffer (s : State) (d : Desc) (ops : List Op) : State :=
  let b : Buf := ⟨d.ctx, d.seq, d.order, d.wait, d.waitCtx, d.waitSeq, false, ops⟩
  let s := (s.inc Reg.FE_COUNT0.BUFFERS 1).inc Reg.FE_COUNT0.OPS ops.length
  let s := (s.setFe fun f => { f with desc := none }).setBufs (s.fe.bufs ++ [b])
  let s := (s.modCtx d.ctx fun x => { x with lastSeq := some d.seq }).markWaits
  s.settleDeps s.fe.bufs.length

/-- The bytes of a buffer, or a failed fetch: refused, ended in an error, beyond device memory in use, or poisoned
(R305, R460, log entry 45). -/
def State.fetchBuffer (s : State) (d : Desc) (hostErr : Bool) (errs : List MemErr) : State × Option (List Nat) :=
  if d.loc.host then
    if !s.windowAdmits d.loc.addr d.len false then (s.deny d.loc.addr denyFetch, none)
    else (s, if hostErr then none else some (s.hostMem.rdBytes d.loc.addr d.len))
  else if s.reserve < d.loc.addr + d.len then (s, none)
  else
    let s := s.memErrs (errsIn [⟨false, d.loc, d.len⟩] errs)
    match s.poisonIn d.loc.addr d.len with
    | some p => (s.poisonRead p, none)
    | none => (s, some (s.hbm.rdBytes d.loc.addr d.len))

/-- The accepted descriptor's buffer is fetched whole and checked (R317); it waits while its ops would exceed 65,536 in
flight (R323). -/
def opBufferCheck (imgs : List (Nat × Image)) (hostErr : Bool) (errs : List MemErr) (s : State) : State :=
  match s.fe.desc with
  | none => s
  | some d =>
    if s.stopped then s
    else
      let drop := fun (s : State) => s.setFe fun f => { f with desc := none }
      let (s', bs) := s.fetchBuffer d hostErr errs
      match bs with
      | none => (drop s').parseFail d.ctx d.seq 3 0 0
      | some bs =>
        if 65536 < s.inFlight + leAt bs 4 4 && leAt bs 4 4 ≤ 16384 then s
        else
          match s'.checkBuffer imgs d.ctx bs d.len with
          | .error f => (drop s').parseFail d.ctx d.seq f.1 f.2.1 f.2.2
          | .ok ops => s'.acceptBuffer d ops

/-! ## Staging (R319, R325, R334, R335, R344, R354, R542) -/

/-- Every predecessor of an op has completed. -/
def Buf.predsDone (b : Buf) (o : Op) : Bool :=
  o.preds.all fun p => match b.op? p with
    | some q => q.st = .done
    | none => true
/-- Every predecessor has completed or runs on the same tiles. -/
def Buf.predsNear (b : Buf) (o : Op) : Bool :=
  o.preds.all fun p => match b.op? p with
    | some q => q.st = .done || ((q.st = .running || q.st = .executed) && q.group? = o.group? && o.group?.isSome)
    | none => true

/-- The engine classes that a duty admits (R58, R194, R350). -/
def dutyAdmits (duty cls code : Nat) : Bool :=
  if cls = Cls.SYNC then
    if code = 1 || code = 2 then true
    else if code = 3 then duty = 1 || duty = 3 || duty = 4
    else duty = 1 || duty = 3 || duty = 4
  else if cls = Cls.STREAM then duty = 1 || duty = 3
  else match duty with
    | 1 => cls = Cls.TENSOR || cls = Cls.CONVERT
    | 3 => cls = Cls.FILTAS
    | 4 => cls = Cls.PATTERN
    | _ => false

/-- An op of context `c` that arrives at a tile is admitted there (R61). -/
def Tile.admits (t : Tile) (c : Nat) (o : Op) : Bool :=
  match t.st with
  | .idle => o.isConfig
  | .config => t.ctx = c
  | .ready => t.ctx = c && dutyAdmits t.duty o.cls o.code
  | .busy => t.ctx = c && dutyAdmits t.duty o.cls o.code
  | .quiet => false

/-- The WRONG_DUTY of an op on a tile. -/
def State.wrongDuty (s : State) (k : OpKey) (t : Nat) : State :=
  s.opFault k Ev.WRONG_DUTY (dutySubsys (s.tile t).duty) (s.tileIsland t) []

/-- Tile admission on one die (R325). -/
def State.tilesAdmitted (s : State) (c : Nat) (tiles : List Nat) : Bool :=
  match tiles with
  | [] => true
  | t :: _ =>
    let d := tileDie t
    let x := s.ctx c
    let n := count (fun u => (s.tile u).holder != some c) tiles
    let free := tiles.all fun u => (s.tile u).holder = none || (s.tile u).holder = some c
    let cap := x.share * 5120 / 256
    let owed := sumNat ((s.ctxs.filter fun r => r.2.rt && r.2.st != .free && r.1 != c).map fun r =>
      r.2.share * 5120 / 256 - s.held r.1 d)
    if x.rt && s.held c d + n ≤ cap then free
    else if !x.rt && cap < s.held c d + n then false
    else free && decide (owed + n ≤ s.freeTiles d)

/-- A rank-table entry of an ETH collective names a port (R422). -/
def rankPort (e : Nat) : Nat := bitsOf e 24 3

/-- Stream contexts that staging an op asks for: unit, or a hub of the engine's choice, with the holder (R334, R335, R344,
R425). -/
def State.contextsFor (s : State) (k : OpKey) (b : Buf) (o : Op) : List (Option Nat × Holder) :=
  let die := (o.num 0) % 16
  if o.cls ≤ 1 || o.cls = Cls.FILTAS || o.cls = Cls.PATTERN || (o.cls = Cls.STREAM && o.code = 1) then
    (if o.refs.isEmpty then [] else [(some die, .op k)])
  else if o.cls = Cls.STREAM then
    match o.pair? with
    | none => if o.isMove then [(none, .op k)] else []
    | some p =>
      if s.se.pairs.any fun q => q.ctx = k.ctx && q.seq = k.seq && q.pair = p then []
      else (none, .pair k.seq p) :: ((b.ops.filter fun q => q.isMove && q.pair? = some p && q.st = .waiting).map fun q =>
        (none, .op { k with id := q.id }))
  else if o.cls = Cls.COLLECTIVE then
    let hubs := if o.num 7 = 0 then [16, 17, 18]
      else
        let ports := (List.range (o.num 4)).map fun i => rankPort (s.readNat ((o.locOf 3).plus (8 * i)) 8)
        [16, 17, 18].filter fun h => ports.any fun p => 16 + p / 2 = h
    hubs.map fun h => (some h, .op k)
  else []

/-- The hub with the most free stream contexts; ties go to the lower hub. -/
def State.bestHub (s : State) : Nat :=
  [17, 18].foldl (fun h u => if s.unitFree h < s.unitFree u then u else h) 16

/-- The contexts reserved one after another; none where one finds no room or the quota is met. -/
def State.reserveAll (s : State) (c : Nat) : List (Option Nat × Holder) → Option State
  | [] => some s
  | (u?, h) :: rest =>
    let u := u?.getD s.bestHub
    if decide (s.unitFree u = 0) || decide ((s.ctx c).streams ≤ s.streamsHeld c) then none
    else State.reserveAll { s with se := { s.se with holds := s.se.holds ++ [⟨c, u, h, .held⟩] } } c rest

/-- A topological order of a buffer's ops, ties to the op that comes first (R354). -/
def topoOps (os : List Op) : Nat → List Nat → List Nat
  | 0, acc => acc
  | n + 1, acc =>
    match os.find? fun (o : Op) => !acc.contains o.id && o.preds.all acc.contains with
    | none => acc
    | some o => topoOps os n (acc ++ [o.id])

/-- The ops that share a huddle with an op of a buffer. -/
def Buf.huddle (b : Buf) (o : Op) : List Op :=
  if o.num 1 = 0xFFFF then [o] else b.ops.filter fun p => p.isHuddle && p.num 1 = o.num 1

/-- Trees are free for a whole huddle. -/
def State.treesFree (s : State) (b : Buf) (o : Op) : Bool :=
  (b.huddle o).all (fun p => decide (s.treesOn (p.num 0 % 16) < 32)) && (o.num 1 = 0xFFFF || decide (s.fabricTrees < 8))

def State.hasTree (s : State) (k : OpKey) : Bool := s.se.trees.any fun t => t.key = k

/-- The huddle ops of all accepted buffers in the order of R354. -/
def State.huddleOrder (s : State) : List (OpKey × Buf × Op) :=
  s.fe.bufs.flatMap fun b => (topoOps b.ops b.ops.length []).filterMap fun id =>
    (b.op? id).bind fun o => if o.isHuddle then some (OpKey.mk b.ctx b.seq id, b, o) else none

/-- An op's huddle waits for trees: it has none, and the predecessors of some participant let it stage (log entry 50). -/
def State.wantsTree (s : State) (k : OpKey) (b : Buf) (o : Op) : Bool :=
  !s.hasTree k && (b.huddle o).any fun p => p.st = .waiting && b.predsNear p

/-- The trees of an op's whole huddle. -/
def State.giveTrees (s : State) (k : OpKey) (b : Buf) (o : Op) : State :=
  let more := (b.huddle o).map fun p => Tree.mk { k with id := p.id } (p.num 0 % 16) (o.num 1 != 0xFFFF) (o.num 1)
  { s with se := { s.se with trees := s.se.trees ++ more } }

/-- Trees granted to the huddles that wait, in the fixed order, up to the first that finds none free (R354). -/
def State.grantInOrder (s : State) : List (OpKey × Buf × Op) → State
  | [] => s
  | e :: rest =>
    if !s.wantsTree e.1 e.2.1 e.2.2 then s.grantInOrder rest
    else if s.treesFree e.2.1 e.2.2 then (s.giveTrees e.1 e.2.1 e.2.2).grantInOrder rest
    else s

/-- What the front end grants so that a huddle op may stage; none while it has to wait for its tree. -/
def State.grantTrees (s : State) (k : OpKey) (o : Op) : Option State :=
  if !o.isHuddle then some s
  else
    let s := s.grantInOrder s.huddleOrder
    if s.hasTree k then some s else none

/-- A pair comes into being with the first op that names it (R344). -/
def State.makePair (s : State) (k : OpKey) (o : Op) : State :=
  match o.pair? with
  | none => s
  | some p =>
    if s.se.pairs.any fun q => q.ctx = k.ctx && q.seq = k.seq && q.pair = p then s
    else { s with se := { s.se with pairs := s.se.pairs ++ [⟨k.ctx, k.seq, p, o.depth, 0, o.depth, []⟩] } }

/-- An IN_BAND TMA_EDIT whose group runs a stream of its context takes no deck slot (R195). -/
def State.inBand (s : State) (k : OpKey) (o : Op) : Bool :=
  o.cls = Cls.SYNC && o.code = 3 && o.num 3 = 1 && (s.streamOn k.ctx o.tiles).isSome

/-- A root op's further conditions: ORDER and WAIT (R319). -/
def State.rootReady (s : State) (b : Buf) (o : Op) : Bool :=
  !o.preds.isEmpty ||
  ((!b.order || (match (s.fe.bufs.filter fun x => x.ctx = b.ctx && decide (x.seq < b.seq)).getLast? with
    | some p => p.complete
    | none => true)) && (!b.wait || b.waitMet))

/-- An op that a running condition of its own holds staged (R384, R391). -/
def State.heldStaged (s : State) (o : Op) : Bool :=
  o.cls = Cls.STEP &&
  if o.code = 0 then s.phase = Phase.VOTING || s.phase = Phase.PREPARED || s.phase = Phase.PIN_WAIT
  else s.rd (pinFld (s.slotOf false)) = 15

/-- The transfers that bring range after range, cut at every 4 KiB boundary, in ascending order (R337). -/
def cutFetch : Nat → Loc → Nat → List Xfer
  | 0, _, _ => []
  | fuel + 1, l, left =>
    if left = 0 then []
    else
      let n := min left (4096 - l.addr % 4096)
      ⟨l, l, n, 0⟩ :: cutFetch fuel (l.plus n) (left - n)

/-- Ranges that a stream reads within one command count as bursts issued and transfers landed (R337, R338). -/
def State.streamed (s : State) (accs : List Acc) : State :=
  let n := sumNat (accs.map fun a => (cutFetch (a.len + 1) a.loc a.len).length)
  (s.inc Reg.SE_COUNT0.BURSTS (ceilDiv n 16)).inc Reg.SE_COUNT0.TRANSFERS n

/-- An operand whose place or size is settled at dispatch only (R316, R320). -/
def Op.atDispatch (o : Op) (i : Nat) : Bool :=
  match o.ref? i with
  | some r => r.slotted || (r.tensor.isNone && o.opnds.any fun x => match x with
      | .num (.ind _ _) => true
      | _ => false)
  | none => false

/-- What a tensor, converter or RELAY op fetches: the regions of the operands it reads, and the tags of a policy-managed one, those
first that staging knows, the others from dispatch on (R334, R339, log entry 127). Rings are read record by record. -/
def Op.fetches (o : Op) (late : Bool) (opnds : List Opnd) : List Xfer :=
  if !(o.cls = Cls.TENSOR || o.cls = Cls.CONVERT || (o.cls = Cls.STREAM && o.code = 1)) then []
  else
    let now := { o with opnds := opnds }
    (List.range opnds.length).flatMap fun i =>
      let reads := ((((opTable o.cls o.code).getD []).map OpdKind.access)[i]?.getD (false, false)).1 ||
        (o.cls = Cls.TENSOR && o.code = 0 && i = 3 && o.accInit = 1)
      match now.ref? i with
      | none => []
      | some r =>
        let n := now.extent i r
        if !reads || o.atDispatch i != late || (o.cls = Cls.TENSOR && o.code = 2 && i = 1) then []
        else cutFetch (n + 1) r.loc n ++ match r.tensor.bind (·.managed), r.tensor with
          | some m, some t => cutFetch (32 * t.patches + 1) m.tags.loc (32 * t.patches)
          | _, _ => []

/-- What an op takes to stage: its predecessors near, its tiles' on-deck slots free, and no admission, stream context, pair or
tree lacking (R319, R325, R335, R344, R354). -/
def State.stageable (s : State) (k : OpKey) (b : Buf) (o : Op) : Bool :=
  let tiles := if s.inBand k o then [] else o.tiles
  o.st = .waiting && b.predsNear o && (tiles.all fun t => (s.tile t).deck.isNone) && s.tilesAdmitted k.ctx tiles &&
  ((s.reserveAll k.ctx (s.contextsFor k b o)).bind fun s => s.grantTrees k o).isSome

/-- Op `p` goes before op `q` of the list of all ops in acceptance order: a real-time context, then the lower context, then the
earlier place (R324). -/
def State.goesBefore (s : State) (p q : OpKey) : Bool :=
  let rt := fun (k : OpKey) => (s.ctx k.ctx).rt
  if rt p != rt q then rt p
  else if p.ctx != q.ctx then decide (p.ctx < q.ctx)
  else
    let order := s.fe.bufs.flatMap fun b => b.ops.map fun o => OpKey.mk b.ctx b.seq o.id
    p != q && (order.takeWhile (· != q)).contains p

/-- Another op that could take the same unit now goes before this one (R324): one to be staged on a tile of the same group, one
to be dispatched on the step controller. -/
def State.outranked (s : State) (k : OpKey) (o : Op) : Bool :=
  s.fe.bufs.any fun b => b.ops.any fun q =>
    let j := OpKey.mk b.ctx b.seq q.id
    s.goesBefore j k &&
    if o.st = .waiting then (q.tiles.any fun t => o.tiles.contains t) && !s.inBand j q && !s.inBand k o && s.stageable j b q
    else o.cls = Cls.STEP && q.cls = Cls.STEP && q.code = o.code && q.st = .staged && b.predsDone q && s.rootReady b q &&
      !s.heldStaged q

/-- An op staged into the on-deck slots of its tiles, with all that it reserves (R319, R325, R335, R344, R354). -/
def opOpStage (k : OpKey) (s : State) : State :=
  match s.op? k, s.buf? k.ctx k.seq with
  | some o, some b =>
    let tiles := if s.inBand k o then [] else o.tiles
    if o.st != .waiting || !b.predsNear o || !(tiles.all fun t => (s.tile t).deck.isNone) || s.outranked k o then s
    else
      match tiles.find? fun t => !(s.tile t).admits k.ctx o with
      | some t => s.wrongDuty k t
      | none =>
        let off := fun (n : Nat) => s.islSt n = Isl.DRAINING || s.islSt n = Isl.GATED || s.islSt n = Isl.UNGATING
        match o.tiles.find? fun t => off (s.tileIsland t) with
        | some t => s.opFault k Ev.ISLAND_OFF_OP 15 (s.tileIsland t) [(1, 2), (2, s.tileIsland t)]
        | none =>
          if !s.tilesAdmitted k.ctx tiles then s
          else
            match (s.reserveAll k.ctx (s.contextsFor k b o)).bind fun s => s.grantTrees k o with
            | none => s
            | some s =>
              let s := s.makePair k o
              let s := tiles.foldl (fun s t => s.modTile t fun x => { x with deck := some k }) s
              s.modOp k fun o => { o with st := .staged, fetch := ⟨o.fetches false o.opnds, [], 0⟩ }
  | _, _ => s

/-! ## Dispatch (R320) -/

/-- The tile's part of a dispatch. A LOAD_POLICY that finds the tile IDLE can only be a FULL load, and takes it to CONFIG like a
TILE_CONFIG; on a tile that is READY its image, which arrives with its command, says which it is (R59, R61, R166). -/
def Tile.start (t : Tile) (k : OpKey) (o : Op) : Tile :=
  let t := { t with running := some k, deck := if t.deck = some k then none else t.deck }
  if o.isConfig && (o.code = 1 || t.st = .idle) then { t with st := .config, ctx := k.ctx }
  else { t with st := .busy }

/-- The first dispatch of a buffer on a group starts the clock of its huddles (R358). -/
def State.markGroup (s : State) (k : OpKey) (o : Op) : State :=
  match o.group? with
  | none => s
  | some g =>
    if s.se.marks.any fun m => m.ctx = k.ctx && m.seq = k.seq && m.group = g then s
    else { s with se := { s.se with marks := s.se.marks ++ [⟨k.ctx, k.seq, g, s.now, 0⟩] } }

/-- A SNAPSHOT pins the committed slot at its dispatch; its STATUS names the step before (R391, R394). -/
def State.pinCommitted (s : State) (k : OpKey) : State :=
  let slot := s.rd Reg.SC_STATUS.COMMIT_SLOT
  (s.wr (pinFld slot) (s.rd (pinFld slot) + 1)).modOp k fun o => { o with work := .snap slot ((o.step + 2 ^ 64 - 1) % 2 ^ 64) [] false }

/-- An op that starts running: values sampled, slots resolved, clock started, tiles taken (R320, R367, R371); a STEP_COMMIT
takes PHASE to VOTING (R384). -/
def State.startOp (s : State) (k : OpKey) (o : Op) (opnds : List Opnd) (tiles : List Nat) : State :=
  let det := s.on Reg.GLOBAL_MODE.DET
  let s := tiles.foldl (fun s t => s.modTile t fun x => x.start k o) s
  let s := s.modOp k fun o => { o with
    st := .running, opnds := opnds, det := det, step := s.rd Reg.SC_STEP.COUNT, slot := s.rd Reg.SC_STATUS.COMMIT_SLOT,
    t0 := s.now, paused := 0, limit := (s.ctx k.ctx).limitMs, fetch := { o.fetch with todo := o.fetch.todo ++ o.fetches true opnds }
    conv := if o.cls ≤ 1 then o.tiles.map fun t => (t, s.tileWord t (s.tile t) TReg.CONV_CFG.OUTL_LOG2.off) else [] }
  let s := { s with sc := { s.sc with detAll := s.sc.detAll && det, detAny := s.sc.detAny || det } }
  let s := if o.cls = Cls.STEP && o.code = 0 then
      { s.wr Reg.SC_STATUS.PHASE Phase.VOTING with sc := { s.sc with commit := some k } } else s
  let s := if o.cls = Cls.STEP && o.code = 1 then s.pinCommitted k else s
  (s.markGroup k o).tracePoint Ev.TP_OP_DISPATCH 7 feIsland (payloadOf [(8, k.seq), (2, k.id), (1, o.cls), (1, o.code)] [])

/-- Every value read at dispatch is in range (R316). -/
def dispatchOk (o : Op) (opnds : List Opnd) : Bool :=
  opndsOk o.cls o.code o.accInit opnds && shapesOk o.cls o.code o.accInit opnds &&
  (!(o.isMove && o.num 5 != 0) || (numAt opnds 3).getD 0 % o.num 4 = 0)

def opOpDispatch (k : OpKey) (errs : List MemErr) (s : State) : State :=
  match s.op? k, s.buf? k.ctx k.seq with
  | some o, some b =>
    let tiles := if s.inBand k o then [] else o.tiles.filter fun t => (s.tile t).deck = some k
    if o.st != .staged || !b.predsDone o || !s.rootReady b o || !(tiles.all fun t => (s.tile t).running.isNone) ||
      s.heldStaged o || s.outranked k o then s
    else
      s.accessing k errs ((o.opnds.flatMap Opnd.indLocs).map fun l => ⟨false, l.1, l.2⟩) fun s =>
        let opnds := o.opnds.map (·.resolve s)
        if !dispatchOk o opnds then s.opFault k Ev.BAD_INDIRECT 7 feIsland []
        else if s.phase = Phase.IN_DOUBT && o.opnds.any Opnd.usesNext then s.opFault k Ev.SLOT_IN_DOUBT 9 hostIsland []
        else if s.phase = Phase.IN_DOUBT && o.cls = Cls.STEP && o.code = 0 then s.opFault k Ev.COMMIT_IN_DOUBT 9 hostIsland []
        else s.startOp k o opnds tiles
  | _, _ => s

/-! ## Completion and timeouts (R322, R327, R328) -/

/-- Records of the op that are not scored, or a sample of it that waits for a staging slot (R153, R168). -/
def State.recordsLeft (s : State) (k : OpKey) : Bool :=
  s.tiles.any fun p => p.2.emit.any (fun r => r.key = k) || p.2.recs.any (fun r => r.key = k) ||
    (p.2.running = some k && p.2.samples.any fun x => x.wait.isSome)

/-- A running op whose effect is whole completes. -/
def opOpComplete (k : OpKey) (s : State) : State :=
  match s.op? k with
  | some o => if o.st = .executed && !s.recordsLeft k then s.completeOp k else s
  | none => s

/-- An op's running time exceeds its LIMIT_MS. -/
def opOpTimeout (k : OpKey) (s : State) : State :=
  match s.op? k with
  | some o =>
    let ran := s.ranFor o
    if (o.st = .running || o.st = .executed) && decide (o.limit * 1000000 < ran) then
      s.faultD Ev.OP_TIMEOUT 7 feIsland (some k.ctx) [(2, k.ctx), (8, k.seq), (2, k.id), (1, o.cls), (1, o.code), (8, ran)]
    else s
  | none => s

/-- A discard order without quiet within the LIMIT_MS in force when it was sent. -/
def opQuietTimeout (c : Nat) (s : State) : State :=
  match (s.ctx c).discard with
  | some d => if !s.stopped && decide (d.1 * 1000000 < s.now - d.2) then s.faultD Ev.QUIET_TIMEOUT 7 feIsland (some c) [(2, c)] else s
  | none => s

/-! ## Faults and quiet of a context (R296, R329, R492) -/

/-- The class Q events of R495. -/
def classQ : List Nat :=
  [Ev.WRONG_DUTY, Ev.SPARSE_META, Ev.OUTLIER_META, Ev.POS_RANGE, Ev.TENSOR_IMAGE, Ev.TAG_INVALID, Ev.POOL_OVERFLOW,
   Ev.NO_POLICY, Ev.DEC_MISMATCH, Ev.STAGE_GEN, Ev.SCORE_IMAGE, Ev.EDIT_BAD, Ev.TMA_ECC, Ev.TMA_SELFTEST, Ev.PATTERN_IMAGE,
   Ev.MEM_UE, Ev.SRAM_UE, Ev.MEM_RANGE, Ev.PARSE_FAIL, Ev.PRIV_FAIL, Ev.DEP_LOST, Ev.BAD_INDIRECT, Ev.SEM_OVERFLOW,
   Ev.STREAM_NACK, Ev.COMMIT_ABORT, Ev.COMMIT_IN_DOUBT, Ev.SLOT_IN_DOUBT, Ev.SNAP_BAD, Ev.STRAGGLER_QUORUM, Ev.COLL_BAD,
   Ev.COLL_PEER_LOST, Ev.ETH_QP_ERROR, Ev.ISLAND_OFF_OP]

/-- The island that such a fault carries as its source: the hub island of the stack whose address it names (R12), the front
end's for the front end's own types; any other where the check sits. -/
def State.checkIsland (s : State) (f : FaultIn) : Nat :=
  if f.typ = Ev.MEM_UE || f.typ = Ev.MEM_RANGE then stackIsland (s.stackOf (leAt f.payload 0 8))
  else if f.typ / 256 = 7 then feIsland
  else f.src

/-- A class Q fault that a check outside every modelled op raises on a context (log entry 53); an SRAM_UE is counted too. -/
def opContextFault (c : Nat) (f : FaultIn) (s : State) : State :=
  if s.stopped || (s.ctx c).st = .free || !classQ.contains f.typ then s
  else if f.typ = Ev.SRAM_UE then s.sramCheck (leAt f.payload 0 4) (leAt f.payload 4 4 / 8) .ue (some c)
  else s.faultQ f.typ (typSubsys f.typ f.duty) (s.checkIsland f) c ((f.payload.take 32).map fun b => (1, b))

/-- A tile that a context no longer holds. Its DUTY code stays as it was, and with it the subsystem of its later events: R57 does
not say that the code is cleared (DESIGN CHOICE, log entry 116). -/
def Tile.release (t : Tile) : Tile :=
  { t with st := .idle, ctx := 0, running := none, deck := none, loading := none, cfg := none, staged := none, unspec := true, lost := true }

/-- The stream contexts, pairs and trees of a context in the dugout are freed (R336, R344, R363). -/
def State.freeDugout (s : State) (c : Nat) : State :=
  { s with se := { s.se with
      holds := s.se.holds.filter fun h => !(h.ctx = c && h.st = .dugout)
      pairs := s.se.pairs.filter fun p => p.ctx != c || s.fe.bufs.any fun b => b.ctx = c && b.seq = p.seq
      trees := s.se.trees.filter fun t => t.key.ctx != c || (s.op? t.key).isSome
      marks := s.se.marks.filter fun m => m.ctx != c || s.fe.bufs.any fun b => b.ctx = c && b.seq = m.seq } }

/-- The DESTROY_CONTEXT ops that wait for a context. -/
def State.destroyers (s : State) (c : Nat) : List OpKey :=
  s.allOps.filterMap fun p =>
    if p.2.cls = Cls.SYNC && p.2.code = 6 && (p.2.st = .running || p.2.st = .executed) && p.2.work = .pending c then some p.1
    else none

/-- The discarded ops of a context that had started. -/
def State.droppedOf (s : State) (c : Nat) : List Op := (s.se.dropped.filter fun p => p.1.ctx = c).map (·.2)

/-- The regions that they write hold unspecified bytes, and they are gone (R330, R444). -/
def State.settleDropped (s : State) (c : Nat) : State :=
  let t := s.scramble ((s.droppedOf c).flatMap s.openRegions)
  { t with se := { t.se with dropped := t.se.dropped.filter fun p => p.1.ctx != c } }

/-- The last engine reports quiet, once every transfer issued has landed or been refused (R296, R297, R329 steps 4, 6 and 7,
R363). -/
def opContextQuiet (c : Nat) (s : State) : State :=
  let x := s.ctx c
  if s.stopped || x.discard.isNone || (s.droppedOf c).any (fun o => o.outstanding != 0) then s
  else
    let s := s.settleDropped c
    let s := s.modCtx c fun x => { x with discard := none }
    let s := { s with tiles := mapVals (fun _ (t : Tile) => if t.st = TileSt.quiet && t.ctx = c then t.release else t) s.tiles }
    let s := s.freeDugout c
    match x.st with
    | .error => if c = 0 then s.modCtx 0 fun x => { x with st := .active } else s
    | .dugout =>
      let s := { s with tiles := mapVals (fun _ (t : Tile) => if t.st != TileSt.idle && t.ctx = c then t.release else t) s.tiles }
      let s := s.setFe fun f => { f with relocs := f.relocs.filter fun r => r.ctx != c }
      let s := { s with qps := s.qps.filter fun q => q.owner != c, se := { s.se with holds := s.se.holds.filter fun h => h.ctx != c } }
      let s := s.setCtx c (Ctx.reset c)
      let s := s.note Ev.CONTEXT_DESTROYED 7 feIsland (some c) [(4, x.discarded)]
      (s.destroyers c).foldl State.completeOp s
    | _ => s

/-! ## The kernel-only ops of R313 -/

def opNop (k : OpKey) (s : State) : State :=
  match s.opIs k Cls.SYNC 0 .running with
  | some _ => s.completeOp k
  | none => s

/-- Use of SHARE in 1/256 of a die, rounded up, on the die where it is largest. -/
def State.shareUse (s : State) (c : Nat) : Nat := ceilDiv ((List.range 16).foldl (fun m d => max m (s.held c d)) 0) 20

/-- One quota set; a cut below current use posts QUOTA_OVER (R326). -/
def State.cutNote (s : State) (c code old new use : Nat) : State :=
  if new < old && new < use then s.note Ev.QUOTA_OVER 7 feIsland (some c) [(2, c), (1, code), (8, new), (8, use)] else s

/-- SHARE, STREAMS and OUTSTANDING of a context set (R313, R470). -/
def State.setQuota (s : State) (c share streams outst : Nat) : State :=
  let x := s.ctx c
  let s := ((s.cutNote c 1 x.share share (s.shareUse c)).cutNote c 2 x.streams streams (s.streamsHeld c)).cutNote c 3
    x.outstanding outst (s.outstanding c)
  s.modCtx c fun x => { x with share := share, streams := streams, outstanding := outst }

/-- The sum of SHARE over real-time contexts would rise above 224, or OUTSTANDING would be 0 (R313). -/
def State.shareDenied (s : State) (c share outst : Nat) : Bool :=
  let x := s.ctx c
  outst = 0 || (x.rt && x.st != .free && decide (x.share < share) &&
    decide (224 < share + sumNat ((s.ctxs.filter fun r => r.2.rt && r.2.st != .free && r.1 != c).map fun r => r.2.share)))

def opSetShare (k : OpKey) (s : State) : State :=
  match s.opIs k Cls.SYNC 5 .running with
  | none => s
  | some o =>
    let s := if s.shareDenied (o.num 0) (o.num 1) (o.num 3) then
        s.note Ev.SHARE_DENIED 7 feIsland (some k.ctx) [(2, o.num 0), (2, o.num 1), (2, o.num 3)]
      else s.setQuota (o.num 0) (o.num 1) (o.num 2) (o.num 3)
    s.completeOp k

/-- The check of the target's descriptor or buffer that fails in the cycle in which its destroy dispatches: the destroy acts first,
and the failure is still posted (R332). -/
def State.failsToo (s : State) (d : Option Desc) (c : Nat) (failing : Option (Nat × Nat × Nat)) : State :=
  match d, failing with
  | some d, some f => if d.ctx = c then s.parseFail c d.seq f.1 f.2.1 f.2.2 else s
  | _, _ => s

/-- DESTROY_CONTEXT: the target goes to DUGOUT with a discard order; the op completes when the dugout empties (R296,
R329). `failing` is a check failure of the target in the same cycle: code, byte offset, OP_ID. -/
def opDestroyContext (k : OpKey) (failing : Option (Nat × Nat × Nat)) (s : State) : State :=
  match s.opIs k Cls.SYNC 6 .running with
  | none => s
  | some o =>
    let c := o.num 0
    let x := s.ctx c
    let d := s.fe.desc
    if o.work != .none then s
    else if x.st = .free then s.completeOp k
    else
      let s := s.modOp k fun o => { o with work := .pending c }
      let s := if s.rd Reg.SC_CTRL.TRAIN_CTX = c then s.wr Reg.SC_STATUS.STEP_FAULT 1 else s
      match x.st with
      | .active =>
        let s := (s.modCtx c fun x => { x with st := .dugout }).discard c
        let s := s.notify c
        (s.settleDeps s.fe.bufs.length).failsToo d c failing
      | .error =>
        s.modCtx c fun x => { x with st := .dugout, discard := some (x.discard.getD (x.limitMs, s.now)) }
      | _ => s

def State.mapRefused (s : State) (k : OpKey) (c h why : Nat) : State :=
  s.note Ev.MAP_REFUSED 7 feIsland (some k.ctx) [(2, c), (4, h), (1, why)]

/-- A context whose handles may be mapped (R314). -/
def State.mappable (s : State) (c : Nat) : Bool := (s.ctx c).st = .active || (s.ctx c).st = .error

def opMapHandle (k : OpKey) (s : State) : State :=
  match s.opIs k Cls.SYNC 7 .running with
  | none => s
  | some o =>
    let c := o.num 0
    let h := o.num 1
    let e : Reloc := ⟨c, h, o.num 2 = 1, o.num 4, o.num 5, o.num 3⟩
    let others := s.fe.relocs.filter fun r => !(r.ctx = c && r.handle = h)
    let s :=
      if !s.mappable c then s.mapRefused k c h 3
      else if 1048576 ≤ others.length then s.mapRefused k c h 1
      else if !e.host && decide (s.reserve < e.base + e.len) then s.mapRefused k c h 2
      else s.setFe fun f => { f with relocs := others ++ [e] }
    s.completeOp k

def opUnmapHandle (k : OpKey) (s : State) : State :=
  match s.opIs k Cls.SYNC 8 .running with
  | none => s
  | some o =>
    let c := o.num 0
    let h := o.num 1
    let s := if !s.mappable c then s.mapRefused k c h 3
      else s.setFe fun f => { f with relocs := f.relocs.filter fun r => !(r.ctx = c && r.handle = h) }
    s.completeOp k

/-! ## The meanings -/

def execSubqEnable (w : Wr) (s : State) : Out := .next (opSubqCtrl w s)
def execSubqDisable (w : Wr) (s : State) : Out := .next (opSubqCtrl w s)
def execSubqTailWrite (w : Wr) (s : State) : Out := .next (opSubqTailWrite w s)
def execDescriptorCheck (hostErr : Bool) (s : State) : Out := .next (opDescriptorCheck hostErr s)
def execBufferCheck (imgs : List (Nat × Image)) (hostErr : Bool) (errs : List MemErr) (s : State) : Out :=
  .next (opBufferCheck imgs hostErr errs s)
def execOpStage (k : OpKey) (s : State) : Out := .next (opOpStage k s)
def execOpDispatch (k : OpKey) (errs : List MemErr) (s : State) : Out := .next (opOpDispatch k errs s)
def execOpComplete (k : OpKey) (s : State) : Out := .next (opOpComplete k s)
def execOpTimeout (k : OpKey) (s : State) : Out := .next (opOpTimeout k s)
def execQuietTimeout (c : Nat) (s : State) : Out := .next (opQuietTimeout c s)
def execContextFault (c : Nat) (f : FaultIn) (s : State) : Out := .next (opContextFault c f s)
def execContextQuiet (c : Nat) (s : State) : Out := .next (opContextQuiet c s)
def execNop (k : OpKey) (s : State) : Out := .next (opNop k s)
def execSetShare (k : OpKey) (s : State) : Out := .next (opSetShare k s)
def execDestroyContext (k : OpKey) (failing : Option (Nat × Nat × Nat)) (s : State) : Out :=
  .next (opDestroyContext k failing s)
def execMapHandle (k : OpKey) (s : State) : Out := .next (opMapHandle k s)
def execUnmapHandle (k : OpKey) (s : State) : Out := .next (opUnmapHandle k s)

end Sys2Proof.Machine
end

