-- ==== Sys2Proof/Machine/Converter.lean ====
section
/-! DEFINITION. The two-way converter: tensors read as blocks, rotation of followers, encodes under formats and policy
decisions, patch tags, statistics features and calibration samples; CONVERT (R96 to R106, R123 to R147, R149 to R168). -/

namespace Sys2Proof.Machine

/-! ## Blocks as read (R96 to R99, R134 to R138) -/

/-- A block of an operand: its class (0 Q4, 1 FP8, 2 BF16, 3 FP32), format, Q4 block and side entry, exact values in the
stored rotation with outliers merged, rotation key, whether its patch's decision extracts outliers, an INT4 code 0x8 met,
and what its metadata breaks (0 nothing, 1 SPARSE_META, 2 OUTLIER_META). -/
structure InBlk where
  mode : Nat
  fmt : Nat
  q : QBlk
  side : Side
  vals : List Num
  rot : Option (Nat × Nat)
  outl : Bool
  code8 : Bool
  metaBad : Nat
  /-- an MXFP4 block as Q4N writes it unchanged, and the elements of a scale-0x00 one that became zero (R97) -/
  copy : Option QEnc
  lost : Nat
  deriving DecidableEq, Repr

def QBlk.zero : QBlk := ⟨0, List.replicate 32 0, [4, 4, 4, 4]⟩
def InBlk.zero : InBlk := ⟨0, 0, QBlk.zero, Side.empty, List.replicate 32 Num.zero, none, false, false, 0, none, 0⟩

def InBlk.ofQ (fmt : Nat) (q : QBlk) (side : Side) : InBlk :=
  { InBlk.zero with fmt := fmt, q := q.masked side, side := side, vals := mergedVals q side,
                    metaBad := if side.bad then 2 else 0 }
def InBlk.ofVals (mode fmt : Nat) (vals : List Num) : InBlk := { InBlk.zero with mode := mode, fmt := fmt, vals := vals }

def fp8Fmt (f : Nat) : FFmt := if f = 5 || f = 7 then FFmt.e4m3 else FFmt.e5m2

/-- Bytes of one element of formats 7 to 10. -/
def elemSize (f : Nat) : Nat := if f = 10 then 4 else if f = 9 then 2 else 1

/-- Block `b` of an operand that no policy manages; `rd` reads its region. -/
def Tensor.plainBlock (t : Tensor) (rd : Nat → Nat → List Nat) (b : Nat) : InBlk :=
  let num := fun o n => leNat (rd o n)
  let nb := t.blocks
  match t.fmt with
  | 0 => InBlk.ofQ 0 (qblkOfBits false (num (18 * b) 18)) Side.empty
  | 1 =>
    let v := num (14 * b) 14
    { InBlk.ofQ 1 (sparseOfBits false v) Side.empty with metaBad := if sparseMetaBad v then 1 else 0 }
  | 2 =>
    let v := num (18 * b) 18
    { InBlk.ofQ 2 (qblkOfBits true v) Side.empty with code8 := int4HasCode8 32 v }
  | 3 =>
    let v := num (14 * b) 14
    { InBlk.ofQ 3 (sparseOfBits true v) Side.empty with
        code8 := int4HasCode8 16 v, metaBad := if sparseMetaBad v then 1 else 0 }
  | 4 =>
    let scale := num (16 * nb + b) 1
    let v := num (16 * b) 16
    let x := mxfp4Vals scale v
    let e := if scale = 0 then q4nEncode x [] (fun _ => .rne) else mxfp4Copy scale v
    { InBlk.ofQ 4 e.blk Side.empty with
        copy := if scale = 0 then none else some e
        lost := if scale = 0 then count (fun k => !(nth x Num.zero k).isZero && nth e.codes 0 k = 0) (List.range 32) else 0 }
  | 5 => InBlk.ofVals 1 5 (mxfp8Vals FFmt.e4m3 (num (32 * nb + b) 1) (rd (32 * b) 32))
  | 6 => InBlk.ofVals 1 6 (mxfp8Vals FFmt.e5m2 (num (32 * nb + b) 1) (rd (32 * b) 32))
  | f =>
    let z := elemSize f
    let dec := fun (v : Nat) => if f = 10 then f32Val v else if f = 9 then bf16Val v else (fp8Fmt f).decode v
    InBlk.ofVals (if f = 10 then 3 else if f = 9 then 2 else 1) f ((List.range 32).map fun k =>
      if 32 * b + k < t.elements then dec (num (z * (32 * b + k)) z) else Num.zero)

/-- A patch tag (R136). -/
structure Tag where
  dec : Nat
  fmt : Nat
  rotated : Bool
  outliers : Bool
  valid : Bool
  elements : Nat
  rotId : Nat
  rotStep : Nat
  slot : Nat
  deriving DecidableEq, Repr

/-- The format that a decision stores (R149). -/
def decFmt (d : Nat) : Nat := if d < 4 then 0 else if d = 4 then 5 else if d = 5 then 6 else 9

def Tag.ofBytes (bs : List Nat) : Tag :=
  let w := leAt bs 0 8
  ⟨bitsOf w 0 4, bitsOf w 4 4, bitOf w 8, bitOf w 9, bitOf w 10, bitsOf w 16 13, bitsOf w 32 32, leAt bs 8 8, leAt bs 16 4⟩

def Tag.bytes (t : Tag) : List Nat :=
  leBytes 8 (t.dec + t.fmt * 2 ^ 4 + b2n t.rotated * 2 ^ 8 + b2n t.outliers * 2 ^ 9 + b2n t.valid * 2 ^ 10 +
    t.elements * 2 ^ 16 + t.rotId * 2 ^ 32) ++ leBytes 8 t.rotStep ++ leBytes 8 t.slot ++ leBytes 8 0

/-- A tag that R138 accepts. -/
def Tag.ok (t : Tag) (cap : Nat) : Bool :=
  t.valid && decide (t.dec ≤ 6) && t.fmt = decFmt t.dec && (decide (t.dec < 4) || decide (t.slot < cap))

/-- Blocks and elements of patch `p`. -/
def Tensor.patchBlocks (t : Tensor) (p : Nat) : Nat := min 128 (t.blocks - 128 * p)
def Tensor.patchElems (t : Tensor) (p : Nat) : Nat := min 4096 (t.elements - 4096 * p)

/-- The ranges of patch `p` that its tag names (R137). -/
def Tensor.patchAccs (t : Tensor) (m : Managed) (loc : Loc) (p : Nat) (g : Tag) (wr : Bool) : List Acc :=
  let n := t.patchBlocks p
  if g.dec < 4 then
    ⟨wr, loc.plus (18 * 128 * p), 18 * n⟩ :: (if g.outliers then [⟨wr, loc.plus (18 * t.blocks + 6 * 128 * p), 6 * n⟩] else [])
  else [⟨wr, m.pool.loc.plus (8192 * g.slot), if g.dec = 6 then 2 * t.patchElems p else 4224⟩]

/-- Block `j` of patch `p` under its tag. -/
def Tensor.patchBlock (t : Tensor) (m : Managed) (rd : Loc → Nat → List Nat) (loc : Loc) (p j : Nat) (g : Tag) : InBlk :=
  let b := 128 * p + j
  if g.dec < 4 then
    let side := if g.outliers then Side.ofBits (leNat (rd (loc.plus (18 * t.blocks + 6 * b)) 6)) else Side.empty
    { InBlk.ofQ 0 (qblkOfBits false (leNat (rd (loc.plus (18 * b)) 18))) side with
        rot := if g.rotated then some (g.rotId, g.rotStep) else none, outl := g.dec = 2 || g.dec = 3 }
  else
    let slot := m.pool.loc.plus (8192 * g.slot)
    if g.dec = 6 then
      InBlk.ofVals 2 9 ((List.range 32).map fun k =>
        if 32 * j + k < t.patchElems p then bf16Val (leNat (rd (slot.plus (64 * j + 2 * k)) 2)) else Num.zero)
    else
      let f := g.dec + 1
      InBlk.ofVals 1 f (mxfp8Vals (fp8Fmt f) (leNat (rd (slot.plus (4096 + j)) 1)) (rd (slot.plus (32 * j)) 32))

/-- TAG_INVALID or POOL_OVERFLOW, raised on the op's first tile (log entry 55). -/
def State.tagFault (s : State) (k : OpKey) (typ t0 : Nat) : State :=
  (s.modTile t0 fun x => x.wr TReg.CONV_STATUS.TAG_FAULT 1).opFault k typ 1 (s.tileIsland t0) []

/-- The first block whose metadata is broken fails the op (R78, R94). -/
def State.blocksIn (s : State) (k : OpKey) (t0 : Nat) (bs : List InBlk) (f : State → List InBlk → State) : State :=
  match bs.find? fun b => b.metaBad != 0 with
  | some b => s.opFault k (if b.metaBad = 1 then Ev.SPARSE_META else Ev.OUTLIER_META) 0 (s.tileIsland t0) []
  | none => f s bs

/-- An operand read whole, or the fault that reading it raises. -/
def State.loadTensor (s : State) (k : OpKey) (errs : List MemErr) (r : Ref) (t0 : Nat) (f : State → List InBlk → State) : State :=
  match r.tensor with
  | none => f s []
  | some t =>
    match t.managed with
    | none =>
      s.accessing k errs [⟨false, r.loc, t.extent⟩] fun s =>
        s.blocksIn k t0 ((List.range t.blocks).map fun b => t.plainBlock (fun o n => s.read (r.loc.plus o) n) b) f
    | some m =>
      s.accessing k errs [⟨false, m.tags.loc, 32 * t.patches⟩] fun s =>
        let tags := (List.range t.patches).map fun p => Tag.ofBytes (s.read (m.tags.loc.plus (32 * p)) 32)
        if tags.any fun g => !g.ok m.poolCap then s.tagFault k Ev.TAG_INVALID t0
        else
          let at_ := fun p => nth tags (Tag.ofBytes []) p
          s.accessing k errs ((List.range t.patches).flatMap fun p => t.patchAccs m r.loc p (at_ p) false) fun s =>
            s.blocksIn k t0 ((List.range t.patches).flatMap fun p => (List.range (t.patchBlocks p)).map fun j =>
              t.patchBlock m s.read r.loc p j (at_ p)) f

/-- An INT4 code 0x8 met by an op: one event (R95). -/
def State.code8Note (s : State) (k : OpKey) (t0 : Nat) (bs : List InBlk) : State :=
  if bs.any (·.code8) then s.note Ev.INT4_CODE8 1 (s.tileIsland t0) (some k.ctx) [] else s

/-! ## Rotation and followers (R125 to R131) -/

def State.seeds (s : State) : Nat × Nat := (s.rd Reg.SC_SEED_LO.SEED, s.rd Reg.SC_SEED_HI.SEED)
/-- The sign word of a key at block position `r`. -/
def signOf (sd : Nat × Nat) (key : Nat × Nat) (r : Nat) : Nat := signWord sd.1 sd.2 key.2 key.1 r
/-- The block position of block `b` along the reduction dimension. -/
def Tensor.rotPos (t : Tensor) (b : Nat) : Nat := 32 * b % t.inner / 32

/-- The values of a block outside any rotation. -/
def InBlk.plain (b : InBlk) (sd : Nat × Nat) (r : Nat) : List Num :=
  match b.rot with
  | none => b.vals
  | some k => rotateInv (signOf sd k r) b.vals

/-- Exact values encoded to a Q4 block inside a tile, with outliers under `OUTL_LOG2 = n` when asked. -/
def InBlk.reQ (vals : List Num) (n : Option Nat) (rnd : Nat → Rnd) : InBlk :=
  let idx := match n with
    | some n => outlierIdx n vals
    | none => []
  let e := q4nEncode vals ((List.range 32).map idx.contains) rnd
  InBlk.ofQ 0 e.blk (sideOf vals idx rnd)

/-- A follower block brought to the lead's rotation, and whether it was changed (R130, R131). -/
def InBlk.follow (b : InBlk) (target : Option (Nat × Nat)) (sd : Nat × Nat) (r n : Nat) : InBlk × Bool :=
  if b.rot = target then (b, false)
  else
    let v := b.plain sd r
    let v := match target with
      | none => v
      | some k => rotateFwd (signOf sd k r) v
    let out :=
      if b.mode = 0 then InBlk.reQ v (if b.outl then some n else none) (fun _ => .rne)
      else if b.mode = 2 then InBlk.ofVals 2 9 (v.map fun x => bf16Val (bf16Of x))
      else if b.mode = 1 then
        let f := fp8Fmt b.fmt
        let e := mxfp8Encode f v (fun _ => .rne)
        InBlk.ofVals 1 b.fmt (mxfp8Vals f e.1 e.2.1)
      else { b with vals := v }
    ({ out with rot := target, outl := b.outl }, true)

/-! ## Encodes (R100 to R106, R132, R133) -/

/-- An encoded block: element bytes, scale byte, side entry, and what the statistics count of it. -/
structure EncBlk where
  data : List Nat
  scale : Nat
  side : Side
  under : Nat
  overs : Nat
  outl : Nat
  zero : Bool
  nan : Bool
  nudge3 : Nat
  deriving DecidableEq, Repr

def packNibbles (codes : List Nat) : List Nat := (List.range 16).map fun i => nth codes 0 (2 * i) + 16 * nth codes 0 (2 * i + 1)

/-- What an encode keeps of the block its values come from: whether they pass through Q4N on their way to MXFP4 (log entry
38), an MXFP4 block that Q4N writes unchanged, and the elements that such a block lost on its way to Q4N (R97). -/
structure SrcBlk where
  viaQ4 : Bool
  copy : Option QEnc
  lost : Nat
  deriving DecidableEq, Repr

/-- Values that come from no block in memory. -/
def SrcBlk.fresh (viaQ4 : Bool) : SrcBlk := ⟨viaQ4, none, 0⟩
def InBlk.src (b : InBlk) : SrcBlk := ⟨b.mode != 0, b.copy, b.lost⟩

/-- One block encoded into a format. `outl` asks for outliers. Underflow counts the elements whose encoded value is zero, a
subnormal one not among them (R141; R105 names both, log entry 118). -/
def encBlk (fmt : Nat) (outl : Option Nat) (src : SrcBlk) (x : List Num) (rnd : Nat → Rnd) : EncBlk :=
  let fin := fun k => (nth x Num.zero k).isFinite && !(nth x Num.zero k).isZero
  let bad := count (fun v => !v.isFinite) x
  let nan := decide (0 < bad)
  let mk := fun (data : List Nat) (scale : Nat) (isZ : Nat → Bool) (sat : List Bool) =>
    EncBlk.mk data scale Side.empty (src.lost + count (fun k => fin k && isZ k) (List.range 32)) (bad + count id sat) 0 false
      nan 0
  match fmt with
  | 0 =>
    let idx := match outl with
      | some n => outlierIdx n x
      | none => []
    let e := if outl.isNone && src.copy.isSome then src.copy.getD QEnc.zeroBlock
      else q4nEncode x ((List.range 32).map idx.contains) rnd
    let inf := fun i => FFmt.bf16.encode (rnd i) (nth x Num.zero i) % 2 ^ 15 = FFmt.bf16.infCode
    let sat := (List.range 32).map fun k => nth e.sat false k || (idx.contains k && decide (inf k))
    { mk e.bytes 0 (fun k => e.exp != 255 && nth e.codes 0 k = 0 && !idx.contains k) sat with
        side := sideOf x idx rnd, outl := idx.length, zero := e.exp = 0, nudge3 := count (· = 3) e.nudges }
  | 4 =>
    let x := if src.viaQ4 then (q4nEncode x [] rnd).blk.vals else x
    let e := mxfp4Encode x
    mk (packNibbles e.2.1) e.1 (fun k => e.1 != 255 && nth e.2.1 0 k = 0) e.2.2
  | 9 =>
    let cs := (List.range 32).map fun k => FFmt.bf16.encode (rnd k) (nth x Num.zero k)
    mk (cs.flatMap (leBytes 2)) 0 (fun k => nth cs 0 k % 2 ^ 15 = 0)
      ((List.range 32).map fun k => (nth x Num.zero k).isFinite && nth cs 0 k % 2 ^ 15 = FFmt.bf16.infCode)
  | 10 =>
    let cs := x.map f32Of
    mk (cs.flatMap (leBytes 4)) 0 (fun k => nth cs 0 k % 2 ^ 31 = 0)
      ((List.range 32).map fun k => (nth x Num.zero k).isFinite && nth cs 0 k % 2 ^ 31 = FFmt.f32.infCode)
  | f =>
    let ff := fp8Fmt f
    if f = 5 || f = 6 then
      let e := mxfp8Encode ff x rnd
      mk e.2.1 e.1 (fun k => e.1 != 255 && nth e.2.1 0 k % ff.signBit = 0) e.2.2
    else
      let cs := (List.range 32).map fun k => ff.encodeSat (rnd k) (nth x Num.zero k)
      mk cs 0 (fun k => nth cs 0 k % ff.signBit = 0)
        (x.map fun v => v.isFinite && (ff.magDy ff.maxCode).lt v.dy.abs)

/-- The rounding of element `e` of a tensor's encode (R104, R109). -/
def Tensor.rnd (t : Tensor) (sd : Nat × Nat) (step : Nat) (e : Nat) : Rnd :=
  if t.sr then .sr (srBits sd.1 sd.2 step t.id e) else .rne

/-- Values of block `b`, elements beyond the tensor as zero. -/
def blockOf (vals : List Num) (b : Nat) : List Num :=
  let l := (vals.drop (32 * b)).take 32
  l ++ List.replicate (32 - l.length) Num.zero

/-- Tile counters after an encode of some blocks into a format; a NaN block is one of a block format (R96, R144). -/
def Tile.encoded (t : Tile) (fmt : Nat) (es : List EncBlk) : Tile :=
  ((t.inc TReg.CONV_COUNT0.BLOCKS_ENC es.length).inc TReg.CONV_COUNT1.OUTLIERS (sumNat (es.map (·.outl)))).inc
    TReg.CONV_COUNT1.NAN_BLOCKS (if fmt ≤ 6 then count (·.nan) es else 0)

/-! ## Statistics features (R141, R142) -/

def dyLe (a b : Dy) : Bool := a.le b

/-- `min(255, ⌊8 log2 (amax n / S1)⌋)`. -/
def meanAbsLog (amax s1 : Dy) (n : Nat) : Nat :=
  let q := ((amax.mul (Dy.ofNat n)).pow 8).floorDiv (s1.pow 8)
  min 255 (Nat.log2 q)

/-- The sixteen features of one patch: its inputs, its encoded blocks, its decision, the encoding tile's CONV_CFG. -/
def Tensor.features (t : Tensor) (x : List Num) (es : List EncBlk) (dec p cfg : Nat) : List Nat :=
  let n := x.length
  let fin := (x.filter (·.isFinite)).map fun v => v.dy.abs
  let bad := fin.length != n
  let amax := fin.foldl Dy.max Dy.zero
  let s1 := Dy.sum fin
  let s2 := Dy.sum (fin.map fun v => v.mul v)
  let beyond := fun (c : Nat) => count (fun v => ((Dy.ofNat c).mul s2).lt ((Dy.ofNat n).mul (v.mul v))) fin
  let sum := fun (g : EncBlk → Nat) => sumNat (es.map g)
  let custom := fun k =>
    match bitsOf cfg (4 + 4 * k) 4 with
    | 0 => (match t.custom[k]? with
      | some (.imm v) => v % 65536
      | _ => 0)
    | 1 => beyond 4
    | 2 => sum (·.nudge3)
    | _ => count (fun v => !v.isZero && (v.shift 8).lt amax) fin
  let pos := if t.patches = 1 then 3 else if p = 0 then 0 else if p + 1 = t.patches then 2 else 1
  [if bad then 255 else if amax.isZero then 0 else (min 254 (max 1 (amax.floorLog2 + 127))).toNat,
   if bad then 255 else if amax.isZero then 0 else meanAbsLog amax s1 n,
   beyond 16, beyond 36, sum (·.under), sum (·.overs), sum (·.outl), sum (fun e => b2n e.zero), dec, t.layer, t.pass, t.role,
   pos + 4 * min 15 (16 * p / t.patches), custom 0, custom 1, custom 2]

/-! ## Decisions (R154 to R156, R162) -/

/-- Entry `p` of slot `slot` of a decision array. -/
def decEntryLoc (dec : Loc) (patches slot p : Nat) : Loc := dec.plus (64 + 8 * patches * slot + 8 * p)

/-- The code of a patch: none for a corrupt entry; with it whether a fall-back was refused (R156). -/
def decide156 (curValid : Bool) (entry a dflt : Nat) : Option (Nat × Bool) :=
  let req := bitsOf entry 32 4
  let dem := bitsOf entry 36 4
  if !curValid || !bitOf entry 40 then some (dflt, false)
  else if 6 < req || 3 < dem then none
  else if req < 4 then some (req, false)
  else if bitsOf entry 41 23 < a then some (req, false)
  else some (dem, true)

/-- A code under R80: no rotation for an op with a sparse weight operand. -/
def noRotCode (noRot : Bool) (c : Nat) : Nat := if noRot && (c = 1 || c = 3) then c - 1 else c

/-! ## Samples (R167, R168) -/

/-- Patch `p` of a tensor is the sampled one of its group. -/
def sampledPatch (sd : Nat × Nat) (step tensor p : Nat) : Bool :=
  p % 256 = hagounoMix sd.1 sd.2 step tensor 2 (p / 256) % 256

/-- The place of staging slot `k` of a tile. -/
def State.stageLoc (s : State) (t k : Nat) : Loc :=
  ⟨false, s.rd Reg.CAL_STAGE_BASE.ADDR + 8192 * (2 * (5120 * tileDie t + 80 * tileRow t + tileCol t) + k)⟩

def Tile.freeStage (t : Tile) : Option Nat :=
  [0, 1].find? fun k => !t.samples.any fun x => x.slot = some k

/-! ## The encode of a tensor -/

/-- One patch as an encode leaves it. -/
structure EncPatch where
  p : Nat
  tag : Tag
  blks : List EncBlk
  tile : Nat
  input : List Num
  deriving DecidableEq, Repr

/-- The bytes that a patch's encode writes, with their places (R136, R137). -/
def Tensor.patchWrites (t : Tensor) (m : Managed) (loc : Loc) (e : EncPatch) : List (Loc × List Nat) :=
  let slot := m.pool.loc.plus (8192 * e.tag.slot)
  (if e.tag.dec < 4 then
    (loc.plus (18 * 128 * e.p), e.blks.flatMap (·.data)) ::
      (if e.tag.outliers then [(loc.plus (18 * t.blocks + 6 * 128 * e.p), e.blks.flatMap fun b => leBytes 6 b.side.toBits)] else [])
  else if e.tag.dec = 6 then [(slot, (e.blks.flatMap (·.data)).take (2 * e.tag.elements))]
  else
    let bytes := (e.blks.flatMap (·.data)).take e.tag.elements
    [(slot, bytes ++ List.replicate (4096 - bytes.length) 0 ++ e.blks.map (·.scale) ++ List.replicate (128 - e.blks.length) 0)]) ++
  [(m.tags.loc.plus (32 * e.p), e.tag.bytes)]

def State.writeAll (s : State) (ws : List (Loc × List Nat)) : State := ws.foldl (fun s w => s.write w.1 w.2) s
def writeAccs (ws : List (Loc × List Nat)) : List Acc := ws.map fun w => ⟨true, w.1, w.2.length⟩

/-- The tile of a group position; position 0 for a position beyond the group. -/
def posTile (tiles : List Nat) (pos : Nat) : Nat := nth tiles (nth tiles 0 0) pos

def Op.convOf (o : Op) (t : Nat) : Nat := ((o.conv.find? fun c => c.1 = t).map (·.2)).getD 0

/-! ## The calibration log (R170 to R172) -/

def calLogSize (s : State) : Nat := 2 ^ s.rd Reg.CAL_LOG_SIZE.LOG2

/-- An entry written to the ring, or dropped where it is full. -/
def State.calLog (s : State) (src : Nat) (bytes : List Nat) : State :=
  let head := s.rd Reg.CAL_LOG_HEAD.HEAD
  if calLogSize s ≤ (head + 2 ^ 32 - s.rd Reg.CAL_LOG_TAIL.TAIL) % 2 ^ 32 then
    ((s.inc Reg.CAL_DROP.DROPPED 1).wr Reg.POLICY_STATUS.CAL_OVERFLOW 1).note Ev.CAL_LOG_OVERFLOW 2 src none []
  else
    (s.write ⟨false, s.rd Reg.CAL_LOG_BASE.ADDR + 128 * (head % calLogSize s)⟩ bytes).wr Reg.CAL_LOG_HEAD.HEAD (head + 1)

/-- The 128 bytes of an entry; a missed one has no errors. -/
def Sample.entry (x : Sample) (tile : Nat) (sc : Scored) (errs : Option (List Nat)) : List Nat :=
  leBytes 8 x.step ++ leBytes 4 x.tensor ++ leBytes 4 x.patch ++
  leBytes 4 (tile + b2n errs.isNone * 2 ^ 17 + b2n x.det * 2 ^ 18 + sc.gen * 2 ^ 19 + nth x.feats 0 8 % 16 * 2 ^ 24 +
    sc.requested * 2 ^ 28) ++ leBytes 4 sc.fbScore ++ List.replicate 8 0 ++
  (List.range 16).flatMap (fun k => leBytes 2 (nth x.feats 0 k)) ++
  (List.range 6).flatMap (fun k => leBytes 4 (nth (errs.getD []) 0 k)) ++
  (List.range 8).flatMap (fun k => leBytes 2 (bf16Of (f32Val (nth sc.o 0 k)))) ++ List.replicate 24 0

/-- A sample's entry goes to the log. What scoring its record gave is a free value where no record of it has been scored: a
sample missed at its encode, or one of a tile that emits no records (log entry 22). -/
def State.calEntry (s : State) (t : Nat) (x : Sample) (errs : Option (List Nat)) : State :=
  match x.scored with
  | some sc => s.calLog (s.tileIsland t) (x.entry t sc errs)
  | none =>
    let w := fun i => (Config.freeWord (s.free + i)).toNat
    let sc : Scored := ⟨w 0 % 16, w 1 % 2 ^ 32, w 2 % 4, (span 3 8).map fun i => w i % 2 ^ 32⟩
    State.calLog { s with free := s.free + 11 } (s.tileIsland t) (x.entry t sc errs)

/-- A missed sample's entry. -/
def State.calMissed (s : State) (t : Nat) (x : Sample) : State :=
  (s.inc Reg.POLICY_COUNT1.CAL_MISSED 1).calEntry t x none

/-- A sampled patch takes its staging slot, waits for one under DET, or is missed at once (R168, R170). -/
def State.sampleAt (s : State) (k : OpKey) (o : Op) (t : Tensor) (e : EncPatch) (feats : List Nat) (hasRec : Bool) : State :=
  if !s.sc.calOn || s.sc.sampled.contains (t.id, e.p) || !sampledPatch s.seeds o.step t.id e.p then s
  else
    let bytes := e.input.flatMap fun v => leBytes 2 (bf16Of v)
    let x := s.tile e.tile
    let free := x.freeStage
    let smp : Sample :=
      { slot := free, tensor := t.id, patch := e.p, step := o.step, elements := e.tag.elements, inner := t.inner,
        det := o.det, feats := feats, ctx := k.ctx, hasRec := hasRec, scored := none,
        wait := if free.isNone && o.det then some bytes else none }
    let s := match free with
      | some k => s.write (s.stageLoc e.tile k) bytes
      | none => s
    let s := if free.isNone && !o.det then s.calMissed e.tile smp
      else s.modTile e.tile fun x => { x with samples := x.samples ++ [smp] }
    ({ s with sc := { s.sc with sampled := (t.id, e.p) :: s.sc.sampled } }).inc Reg.POLICY_COUNT1.CAL_SAMPLED 1

/-- The staging writes that the encode of some patches makes. -/
def State.stageAccs (s : State) (o : Op) (t : Tensor) (es : List EncPatch) : List Acc :=
  if !s.sc.calOn then []
  else es.filterMap fun e =>
    if t.stats && sampledPatch s.seeds o.step t.id e.p && !s.sc.sampled.contains (t.id, e.p) then
      ((s.tile e.tile).freeStage).map fun k => ⟨true, s.stageLoc e.tile k, 2 * e.tag.elements⟩
    else none

/-- The patches of a policy-managed encode under their codes. -/
def Tensor.encPatches (t : Tensor) (sd : Nat × Nat) (o : Op) (vals : List Num) (codes : List Nat) (tileOf : Nat → Nat)
    (src : Nat → SrcBlk) : List EncPatch :=
  ((List.range t.patches).foldl (fun (a : Nat × List EncPatch) p =>
    let code := nth codes 0 p
    let rotated := code = 1 || code = 3
    let outl := code = 2 || code = 3
    let tile := tileOf p
    let n := bitsOf (o.convOf tile) 0 4
    let blks := (List.range (t.patchBlocks p)).map fun j =>
      let b := 128 * p + j
      let x := blockOf vals b
      let x := if rotated then rotateFwd (signOf sd (t.id, o.step) (t.rotPos b)) x else x
      /- R97's copy is of values outside any rotation -/
      let src := if rotated then { src b with copy := none } else src b
      encBlk (decFmt code) (if outl then some n else none) src x fun k => t.rnd sd o.step (32 * b + k)
    let tag : Tag := ⟨code, decFmt code, rotated, outl, true, t.patchElems p, if rotated then t.id else 0, o.step,
      if code < 4 then 0xFFFFFFFF else a.1⟩
    (if code < 4 then a.1 else a.1 + 1, a.2 ++ [⟨p, tag, blks, tile, (vals.drop (4096 * p)).take (t.patchElems p)⟩])) (0, [])).2

/-- The 64 bytes of a statistics record (R140). -/
def StatRec.bytes (r : StatRec) : List Nat :=
  r.feats.flatMap (leBytes 2) ++ leBytes 4 r.tensor ++ leBytes 4 r.patch ++ leBytes 8 r.step ++ leBytes 4 (r.tile % 2 ^ 17) ++
  leBytes 2 r.elements ++ List.replicate 10 0

/-- What a patch's encode leaves beside its bytes: counters, under STATS its sample, and its statistics record where the
tile's STATS_EN stands (R139, R167). -/
def State.patchDone (s : State) (k : OpKey) (o : Op) (t : Tensor) (m : Managed) (e : EncPatch) : State :=
  let s := s.modTile e.tile fun x => x.encoded (decFmt e.tag.dec) e.blks
  let cfg := o.convOf e.tile
  if t.stats then
    let feats := t.features e.input e.blks e.tag.dec e.p cfg
    let rec_ : StatRec :=
      { key := k, tensor := t.id, patch := e.p, step := o.step, tile := e.tile, elements := e.tag.elements,
        feats := feats, dec := m.dec.loc.addr, patches := t.patches, budget := t.budget }
    (s.modTile e.tile fun x => { x with emit := if bitOf cfg 16 then x.emit ++ [rec_] else x.emit }).sampleAt k o t e feats (bitOf cfg 16)
  else s

/-- A policy-managed operand encoded (R151 to R168). -/
def State.encManaged (s : State) (k : OpKey) (errs : List MemErr) (o : Op) (r : Ref) (t : Tensor) (m : Managed)
    (vals : List Num) (tileOf : Nat → Nat) (noRot : Bool) (from_ : Nat → SrcBlk) (f : State → State) : State :=
  let t0 := nth o.tiles 0 0
  let src := s.tileIsland t0
  let np := t.patches
  s.accessing k errs [⟨false, m.dec.loc, 64⟩] fun s =>
    let hdr := s.read m.dec.loc 64
    let cur := leAt hdr 4 1 % 2
    let curValid := bitOf (leAt hdr 4 1) 7
    if leAt hdr 0 4 != np then s.opFault k Ev.DEC_MISMATCH 2 src []
    else if t.stats && !s.policyDies.contains (tileDie t0) then s.opFault k Ev.NO_POLICY 2 src []
    else
      s.accessing k errs (if curValid then [⟨false, decEntryLoc m.dec.loc np cur 0, 8 * np⟩] else []) fun s =>
        let a := t.budget * np / 64
        let got := (List.range np).map fun p =>
          decide156 curValid (if curValid then s.readNat (decEntryLoc m.dec.loc np cur p) 8 else 0) a t.dflt
        if got.any (·.isNone) then s.opFault k Ev.DEC_MISMATCH 2 src []
        else
          let codes := got.map fun g => noRotCode noRot ((g.map (·.1)).getD 0)
          let refused := count (fun g => (g.map (·.2)).getD false) got
          if m.poolCap < count (fun c => decide (4 ≤ c)) codes then s.tagFault k Ev.POOL_OVERFLOW t0
          else
            let es := t.encPatches s.seeds o vals codes tileOf from_
            let ws := es.flatMap (t.patchWrites m r.loc)
            s.accessing k errs (writeAccs ws ++ s.stageAccs o t es) fun s =>
              let s := s.writeAll ws
              let s := es.foldl (fun s e => s.patchDone k o t m e) s
              let s := if refused = 0 then s
                else
                  (s.inc Reg.POLICY_COUNT0.EXCESS refused).note Ev.POLICY_BUDGET 2 src (some k.ctx)
                    [(4, t.id), (8, o.step), (4, leAt hdr 0x10 4), (4, a), (4, leAt hdr 0x10 4 - a)]
              f s

/-- An operand encoded in the format its op names (R96 to R99). -/
def State.encPlain (s : State) (k : OpKey) (errs : List MemErr) (o : Op) (r : Ref) (t : Tensor) (vals : List Num)
    (tileOf : Nat → Nat) (from_ : Nat → SrcBlk) (f : State → State) : State :=
  let es := (List.range t.blocks).map fun b =>
    encBlk t.fmt none (from_ b) (blockOf vals b) fun i => t.rnd s.seeds o.step (32 * b + i)
  let data := es.flatMap (·.data)
  let bytes :=
    if t.fmt = 0 then data
    else if t.fmt ≤ 6 then data ++ es.map (·.scale)
    else data.take (elemSize t.fmt * t.elements)
  s.accessing k errs [⟨true, r.loc, bytes.length⟩] fun s =>
    let s := s.write r.loc bytes
    let s := if t.fmt = 10 then s
      else (List.range t.patches).foldl (fun s p =>
        s.modTile (tileOf p) fun x => x.encoded t.fmt ((es.drop (128 * p)).take 128)) s
    f s

/-- A tensor of values encoded into an operand. -/
def State.encodeTensor (s : State) (k : OpKey) (errs : List MemErr) (o : Op) (r : Ref) (vals : List Num)
    (tileOf : Nat → Nat) (noRot : Bool) (from_ : Nat → SrcBlk) (f : State → State) : State :=
  match r.tensor with
  | none => f s
  | some t =>
    match t.managed with
    | some m => s.encManaged k errs o r t m vals tileOf noRot from_ f
    | none => s.encPlain k errs o r t vals tileOf from_ f

/-! ## Work plans (R72) -/

/-- The work-unit queues that the group's image carries for an op, if any. -/
def State.workPlan (s : State) (o : Op) : Option WorkPlan :=
  match (s.tile (nth o.tiles 0 0)).cfg.bind fun c => mapGet? s.configs c with
  | some i => i.work.find? fun p => p.opId = o.id
  | none => none

/-- The tile that encodes a patch of an op's output; group position 0 where the image names none (log entry 31). -/
def State.encTile (s : State) (o : Op) (p : Nat) : Nat :=
  posTile o.tiles (match s.workPlan o with
    | some w => nth w.encode 0 p
    | none => 0)

/-- No tile of the op's group stands in a replay (R121). -/
def State.checksPass (s : State) (o : Op) : Bool := o.tiles.all fun t => (s.tile t).replay = .check

/-- A tensor slot that holds a 2:4 sparse operand. -/
def Tensor.isSparse (t : Tensor) : Bool := t.managed.isNone && (t.fmt = 1 || t.fmt = 3)

/-- The tiles of an op count the blocks of an operand that they decode (R144). -/
def State.countDecoded (s : State) (o : Op) (t : Tensor) : State :=
  if t.fmt ≤ 6 then
    (List.range t.patches).foldl (fun s p => s.modTile (s.encTile o p) fun x =>
      x.inc TReg.CONV_COUNT0.BLOCKS_DEC (t.patchBlocks p)) s
  else s

/-- An operand's values outside any rotation. -/
def Tensor.plainVals (t : Tensor) (sd : Nat × Nat) (bs : List InBlk) : List Num :=
  ((List.range t.blocks).flatMap fun b => (nth bs InBlk.zero b).plain sd (t.rotPos b)).take t.elements

/-! ## CONVERT (R312) -/

/-- CONVERT: SRC decoded exactly, outliers merged and rotations undone, then encoded into DST. -/
def opConvert (k : OpKey) (errs : List MemErr) (s : State) : State :=
  match s.opIs k Cls.CONVERT 0 .running with
  | none => s
  | some o =>
    match o.ref? 1, o.ref? 2 with
    | some src, some dst =>
      match src.tensor with
      | none => s
      | some ts =>
        let t0 := nth o.tiles 0 0
        s.asFetched o fun s =>
        s.sramMet k o.tiles errs fun s =>
        s.loadTensor k errs src t0 fun s bs =>
          let s := s.code8Note k t0 bs
          s.encodeTensor k errs o dst (ts.plainVals s.seeds bs) (s.encTile o) ts.isSparse
            (fun b => (nth bs InBlk.zero b).src) fun s => (s.countDecoded o ts).executed k
    | _, _ => s

/-! ## STATS_RECORD (R139, R143) -/

/-- The oldest record formed takes a place of the record buffer, if one is free. -/
def opStatsRecord (t : Nat) (s : State) : State :=
  let x := s.tile t
  match x.emit with
  | [] => s
  | r :: rest => if s.stopped || s.heldTile t || 4 ≤ x.recs.length then s else s.setTile t { x with emit := rest, recs := x.recs ++ [r] }

def execConvert (k : OpKey) (errs : List MemErr) (s : State) : Out := .next (opConvert k errs s)
def execStatsRecord (t : Nat) (s : State) : Out := .next (opStatsRecord t s)

end Sys2Proof.Machine
end

