-- ==== Sys2Proof/Machine/Mac.lean ====
section
/-! DEFINITION. The MAC array: block products, the accumulator, work units and stealing, the residue check; DISPATCH and
VECTOR (R72 to R87, R110 to R122, R312). -/

namespace Sys2Proof.Machine

/-! ## Block pairs (R110 to R117) -/

/-- A block as it enters the array: an FP32 block is encoded to Q4N first, without outliers (R110). -/
def InBlk.entering (b : InBlk) (rnd : Nat → Rnd) : InBlk :=
  if b.mode = 3 then { InBlk.reQ b.vals none rnd with rot := b.rot } else b

/-- A Q4 block whose exponent code marks a zero block. -/
def InBlk.isZeroBlk (b : InBlk) : Bool := b.mode = 0 && b.q.exp = 0

/-- The values that a block brings to P: its outlier slots read as zero. -/
def InBlk.arrayVals (b : InBlk) : List Num := if b.mode = 0 then b.q.vals else b.vals

def InBlk.outliers (b : InBlk) : List Nat := b.side.list.map (·.1)

/-- What one block pair adds to the accumulator, in order, and whether its block product is skipped (R81, R110 to R117). -/
def pairTerms (a b : InBlk) : Bool × List Num :=
  let skip := a.isZeroBlk || b.isZeroBlk
  let u := (List.range 32).filter fun i => a.outliers.contains i || b.outliers.contains i
  let prods := ((List.range 32).filter fun i => !u.contains i).map fun i =>
    (nth a.arrayVals Num.zero i).mul (nth b.arrayVals Num.zero i)
  let main :=
    if skip then []
    else if a.mode = 0 && b.mode = 0 then [pairValue a.q b.q]
    else if a.mode = 2 || b.mode = 2 then prods
    else [prods.foldl Num.add Num.zero]
  let terms := u.map fun i => (nth a.vals Num.zero i).mul (nth b.vals Num.zero i)
  (skip, (main ++ terms).map fun x => if a.rot.isSome then x.shift (-5) else x)

/-- Contributions added one by one, each with one rounding; an exact zero leaves the accumulator (R81, R113, log entry
58). -/
def accumulate (acc : Nat) (ts : List Num) : Nat := ts.foldl (fun acc x => if x.isZero then acc else f32Acc acc x) acc

/-! ## A MATMUL's operands in the array -/

/-- The blocks of A and B, blocks per row, the lead, and what rounding and rotation take from the op. -/
structure MacIn where
  a : List InBlk
  b : List InBlk
  ta : Tensor
  tb : Tensor
  kb : Nat
  leadA : Bool
  sparse : Bool
  sd : Nat × Nat
  step : Nat
  deriving DecidableEq, Repr

/-- Block pair `k` of row `r` and column `c`: skipped, the blocks that the converter decodes and encodes for it, and its
contributions. -/
structure PairOut where
  skip : Bool
  dec : Nat
  enc : Nat
  terms : List Num
  deriving DecidableEq, Repr

/-- A 2:4 sparse block that meets a block of a fall-back format, 1 FP8 or 2 BF16, expanded into that format (R80). -/
def InBlk.expand (b : InBlk) (sparse : Bool) (y : InBlk) (managed : Bool) : InBlk × Bool :=
  if !sparse || !managed || (y.mode != 1 && y.mode != 2) then (b, false)
  else if y.mode = 2 then (InBlk.ofVals 2 9 (b.vals.map fun v => bf16Val (bf16Of v)), true)
  else
    let e := mxfp8Encode (fp8Fmt y.fmt) b.vals (fun _ => .rne)
    (InBlk.ofVals 1 y.fmt (mxfp8Vals (fp8Fmt y.fmt) e.1 e.2.1), true)

/-- A pair as the array meets it: followers brought to the lead's rotation, sparse blocks expanded, FP32 blocks encoded. `n`
is OUTL_LOG2 of the computing tile (R130). The converter decodes a block for each pair it changes it for, and each MXFP4
block (R97); it encodes each block it expands and each FP32 block (log entry 56). -/
def MacIn.pair (m : MacIn) (n r c k : Nat) : PairOut :=
  let x := nth m.a InBlk.zero (r * m.kb + k)
  let y := nth m.b InBlk.zero (c * m.kb + k)
  let target := if m.sparse then none else if m.leadA then x.rot else y.rot
  let fx := x.follow target m.sd k n
  let fy := y.follow target m.sd k n
  let ex := fx.1.expand m.ta.isSparse y m.tb.managed.isSome
  let ey := fy.1.expand m.tb.isSparse x m.ta.managed.isSome
  let t := pairTerms (ex.1.entering fun i => m.ta.rnd m.sd m.step (32 * (r * m.kb + k) + i))
    (ey.1.entering fun i => m.tb.rnd m.sd m.step (32 * (c * m.kb + k) + i))
  let dec := fun (b : InBlk) (follows expands : Bool) => b2n (follows || expands || b.fmt = 4)
  let enc := fun (b : InBlk) (expands : Bool) => b2n (expands || b.mode = 3)
  ⟨t.1, dec x fx.2 ex.2 + dec y fy.2 ey.2, enc ex.1 ex.2 + enc ey.1 ey.2, t.2⟩

def WorkUnit.covers (u : WorkUnit) (r c : Nat) : Bool :=
  decide (u.row0 ≤ r) && decide (r < u.row0 + u.rows) && decide (u.col0 ≤ c) && decide (c < u.col0 + u.cols)

/-- A unit's pairs of one element added to an accumulator, in ascending block index (R114). -/
def MacIn.runUnit (m : MacIn) (n : Nat) (u : WorkUnit) (r c acc : Nat) : Nat :=
  (span u.blk0 u.blks).foldl (fun acc k => if k < m.kb then accumulate acc (m.pair n r c k).terms else acc) acc

/-! ## Work units (R72 to R75) -/

/-- The units of an op: as stealing has left them, else as the image's queues give them; one unit at position 0 where the
image gives none (log entry 31). -/
def State.opUnits (s : State) (o : Op) : List UnitSt :=
  match o.work with
  | .units us _ _ => us
  | _ =>
    let us := match s.workPlan o with
      | some p => p.units
      | none => [⟨0, 0, o.num 5, 0, o.num 6, 0, o.num 7 / 32⟩]
    us.map fun u => ⟨u, none, none⟩

/-- Own units of a position that nobody has taken, in queue order. -/
def ownUnits (us : List UnitSt) (p : Nat) : List UnitSt := us.filter fun u => u.u.owner = p && u.thief.isNone

/-- Results of stolen units of an owner that arrived after `j` of its own units, in arrival order. -/
def arrivals (us : List UnitSt) (p j : Nat) (last : Bool) : List UnitSt :=
  let l := us.filter fun u => u.u.owner = p && u.thief.isSome && match u.arrived with
    | some a => a.1 = j || (last && decide (j ≤ a.1))
    | none => false
  sortBy (fun x y => decide ((x.arrived.getD (0, 0)).2 ≤ (y.arrived.getD (0, 0)).2)) l

/-- The FP32 result of one output element (R75, R114). -/
def MacIn.element (m : MacIn) (conv : Nat → Nat) (us : List UnitSt) (r c acc0 : Nat) : Nat :=
  let us := us.filter fun u => u.u.covers r c || u.thief.isNone
  let owners := (us.map fun u => u.u.owner).eraseDups
  owners.foldl (fun acc p =>
    let own := ownUnits us p
    let late := fun (acc j : Nat) (last : Bool) => (arrivals us p j last).foldl (fun acc u =>
      if u.u.covers r c then f32Add acc (m.runUnit (conv (u.thief.getD 0)) u.u r c 0) else acc) acc
    let acc := (List.range own.length).foldl (fun acc j =>
      let acc := late acc j false
      match own[j]? with
      | some u => if u.u.covers r c then m.runUnit (conv p) u.u r c acc else acc
      | none => acc) acc
    late acc own.length true) acc0

/-- Skipped products of one unit, and the blocks decoded and encoded for it (R81, R144). -/
def MacIn.unitCounts (m : MacIn) (n : Nat) (u : WorkUnit) : Nat × Nat × Nat :=
  (span u.row0 u.rows).foldl (fun a r => (span u.col0 u.cols).foldl (fun a c =>
    (span u.blk0 u.blks).foldl (fun a k =>
      if k < m.kb then
        let p := m.pair n r c k
        (a.1 + b2n p.skip, a.2.1 + p.dec, a.2.2 + p.enc)
      else a) a) a) (0, 0, 0)

/-- The computing tile of each unit counts what the array and the converter did for it. -/
def State.countUnits (s : State) (o : Op) (m : MacIn) (us : List UnitSt) : State :=
  us.foldl (fun s u =>
    let t := posTile o.tiles (u.thief.getD u.u.owner)
    let c := m.unitCounts (bitsOf (o.convOf t) 0 4) u.u
    s.modTile t fun x => ((x.inc TReg.TILE_COUNT.ZERO_SKIP c.1).inc TReg.CONV_COUNT0.BLOCKS_DEC c.2.1).inc
      TReg.CONV_COUNT0.BLOCKS_ENC c.2.2) s

/-! ## MATMUL (R114, R312) -/

/-- The initial values of the accumulators: +0, the contents of C, or ACC. -/
def State.accInits (s : State) (k : OpKey) (errs : List MemErr) (o : Op) (t0 : Nat) (f : State → List Nat → State) : State :=
  let load := fun (i : Nat) =>
    match o.ref? i with
    | some r => s.loadTensor k errs r t0 fun s bs => f s ((bs.flatMap (·.vals)).map f32Of)
    | none => f s []
  if o.accInit = 1 then load 3 else if o.accInit = 2 then load 4 else f s []

/-- MATMUL: C = initial + A × B, each element by exact block products into an FP32 accumulator. It is whole once every
stolen unit's result has arrived and every check has passed. -/
def opMatmul (k : OpKey) (errs : List MemErr) (s : State) : State :=
  match s.opIs k Cls.TENSOR 0 .running with
  | none => s
  | some o =>
    match o.ref? 1, o.ref? 2, o.ref? 3 with
    | some ra, some rb, some rc =>
      match ra.tensor, rb.tensor with
      | some ta, some tb =>
        let us := s.opUnits o
        if us.any (fun u => u.thief.isSome && u.arrived.isNone) || !s.checksPass o then s
        else
          let t0 := nth o.tiles 0 0
          s.asFetched o fun s =>
          s.sramMet k o.tiles errs fun s =>
          s.loadTensor k errs ra t0 fun s ba =>
            s.loadTensor k errs rb t0 fun s bb =>
              s.accInits k errs o t0 fun s init =>
                let sparse := ta.isSparse || tb.isSparse
                let m : MacIn := ⟨ba, bb, ta, tb, o.num 7 / 32, ta.lead, sparse, s.seeds, o.step⟩
                let conv := fun p => bitsOf (o.convOf (posTile o.tiles p)) 0 4
                let n := o.num 6
                let out := (List.range (o.num 5)).flatMap fun r => (List.range n).map fun c =>
                  m.element conv us r c (nth init 0 (r * n + c))
                let s := (s.code8Note k t0 (ba ++ bb)).countUnits o m us
                s.encodeTensor k errs o rc (out.map f32Val) (s.encTile o) sparse
                  (fun _ => SrcBlk.fresh true) fun s => s.executed k
      | _, _ => s
    | _, _, _ => s

/-! ## Stealing (R73, R74) -/

/-- An op whose units may be stolen. -/
def Op.stealable (o : Op) : Bool :=
  !o.det && !o.noSteal && (o.cls = Cls.CONVERT || (o.cls = Cls.TENSOR && o.code != 1))

/-- The last `n` own units of position `p` go to the thief. -/
def giveUnits (us : List UnitSt) (p n thief : Nat) : List UnitSt :=
  let keep := (ownUnits us p).length - n
  (us.foldl (fun (a : Nat × List UnitSt) u =>
    if u.u.owner = p && u.thief.isNone then
      (a.1 + 1, a.2 ++ [if keep ≤ a.1 then { u with thief := some thief } else u])
    else (a.1, a.2 ++ [u])) (0, [])).2

/-- The positions that have asked for units, and those that have stopped stealing for the op. -/
def Op.stealers (o : Op) : List Nat × List Nat :=
  match o.work with
  | .units _ idle stopped => (idle, stopped)
  | _ => ([], [])

/-- A steal request of the tile at position `pos`, which has no unit left. How many of a tile's units have not been started
is a free value, one for each tile asked (log entry 61), and none for a tile that has itself asked. Where no tile has two,
the requester stops stealing for the op (R74). -/
def opStealRequest (k : OpKey) (pos : Nat) (s : State) : State :=
  match s.op? k with
  | none => s
  | some o =>
    let tiles := o.tiles
    let n := tiles.length
    let us := s.opUnits o
    let idle := pos :: o.stealers.1.filter (· != pos)
    let busy := us.any fun u => u.thief = some pos && u.arrived.isNone
    if o.st != .running || !o.stealable || n ≤ pos || busy || o.stealers.2.contains pos || tiles.any s.heldTile then s
    else
      let unstarted := fun j =>
        if idle.contains ((pos + 1 + j) % n) then 0
        else (Config.freeWord (s.free + j)).toNat % ((ownUnits us ((pos + 1 + j) % n)).length + 1)
      let s := { s with free := s.free + n }
      match findPos (fun j => decide (2 ≤ unstarted j)) (List.range (n - 1)) with
      | none => s.modOp k fun o => { o with work := .units us idle (pos :: o.stealers.2) }
      | some j =>
        let p := (pos + 1 + j) % n
        let give := unstarted j / 2
        let s := s.modOp k fun o => { o with work := .units (giveUnits us p give pos) idle o.stealers.2 }
        let s := s.modTile (posTile tiles pos) fun x => x.inc TReg.TILE_STEAL.UNITS_IN give
        s.modTile (posTile tiles p) fun x => x.inc TReg.TILE_STEAL.UNITS_OUT give

/-- The result of stolen unit `i` arrives at its owner after `after` of the owner's own units (R75). -/
def opStolenUnitResult (k : OpKey) (i after : Nat) (s : State) : State :=
  match s.op? k with
  | none => s
  | some o =>
    match o.work with
    | .units us idle stopped =>
      match us[i]? with
      | none => s
      | some u =>
        let before := us.filterMap fun x => if x.u.owner = u.u.owner then x.arrived else none
        let least := before.foldl (fun m a => max m a.1) 0
        if o.st != .running || u.thief.isNone || u.arrived.isSome || after < least ||
            (ownUnits us u.u.owner).length < after || o.tiles.any s.heldTile then s
        else
          let no := count (fun (x : UnitSt) => x.arrived.isSome) us
          s.modOp k fun o => { o with work := .units (setAt us i { u with arrived := some (after, no) }) idle stopped }
    | _ => s

/-! ## The residue check (R118 to R122) -/

def ReplaySt.next : ReplaySt → ReplaySt
  | .check => .rp1
  | .rp1 => .rp2
  | .rp2 => .rp3
  | .rp3 => .rp4
  | _ => .halted

/-- Two integers of different residues. -/
def residueDiffers (a b : Int) : Bool := a % 7 != b % 7

/-- A difference in any check of a block pair is a mismatch for the whole pair (R118). The sum and the products of the FP8
and BF16 checks are compared by their residues modulo 7 too (log entry 119). -/
def PairCheck.mismatch : PairCheck → Bool
  | .q4 ta tb d => (List.range 4).any fun j => residueDiffers (subC ta tb j) (nth d 0 j)
  | .fp8 a b sum => residueDiffers ((List.range 32).foldl (fun acc i => acc + (nth a 0 i % 7) * (nth b 0 i % 7)) 0) sum
  | .bf16 ps => ps.any fun p => residueDiffers (((p.1 % 7) * (p.2.1 % 7) : Nat) : Int) (p.2.2 : Int)

/-- A residue check of a block pair on a tile that runs a MATMUL: the table of R121. -/
def opResidueReplay (t : Nat) (chk : PairCheck) (s : State) : State :=
  let x := s.tile t
  match x.running.bind s.op? with
  | none => s
  | some o =>
    let src := s.tileIsland t
    if o.cls != Cls.TENSOR || o.code != 0 || o.st != .running || s.islSt src != Isl.RUN || x.replay = .halted then s
    else if !chk.mismatch then s.modTile t fun x => { x with replay := .check }
    else
      let s := s.modTile t fun x => { x with replay := x.replay.next }
      if x.replay = .rp4 then
        (s.recordFail 1 Ev.RESIDUE_FAIL (s.physical t) 0).faultD Ev.RESIDUE_FAIL 0 src (some x.ctx) []
      else
        (s.modTile t fun x => x.inc TReg.TILE_COUNT.RESIDUE_REPLAY 1).raise Ev.RESIDUE_REPLAY 1 0 src (some x.ctx) []

/-! ## DISPATCH (R83 to R87) -/

/-- The lists of a DISPATCH in progress: entries per bucket, spilled entries, dropped count. -/
structure Routed where
  out : List (List Nat)
  spill : List Nat
  dropped : Nat
  deriving DecidableEq, Repr

/-- One selection entry routed to bucket `b`, or missed. -/
def Routed.step (r : Routed) (cap : Nat) (ovf : Bool) (e : Nat) (b : Option Nat) : Routed :=
  let reason := fun v => e % 2 ^ 56 + v * 2 ^ 56
  match b with
  | none => { r with spill := r.spill ++ [reason 1] }
  | some b =>
    if (nth r.out [] b).length < cap then { r with out := modifyAt r.out b (· ++ [e]) }
    else if ovf then { r with spill := r.spill ++ [reason 2] }
    else { r with dropped := r.dropped + 1 }

/-- The effect of processing SEL in index order (R86). A winner's LEAF_REF is compared whole with B: one whose bits [15:12]
are not 0 is a miss (log entry 120). `flips` are the slot bits in error that the searches meet (R205). -/
def opDispatch (k : OpKey) (flips : List SlotFlip) (errs : List MemErr) (s : State) : State :=
  match s.opIs k Cls.TENSOR 1 .running with
  | none => s
  | some o =>
    let n := o.num 2
    let nb := o.num 3
    let cap := o.num 4
    let spillCap := o.num 8
    let tiles := o.tiles
    let chunk := max 1 (ceilDiv n tiles.length)
    s.asFetched o fun s =>
    s.sramMet k tiles errs fun s =>
    s.accessing k errs [⟨false, o.locOf 1, 8 * n⟩] fun s =>
      let es := (List.range n).map fun i => s.readNat ((o.locOf 1).plus (8 * i)) 8
      let found := (List.range n).map fun i => ((s.tile (posTile tiles (i / chunk))).flipped (posTile tiles (i / chunk)) flips).search (bitsOf (nth es 0 i) 24 16)
      let r := (es.zip found).foldl (fun (r : Routed) p =>
        r.step cap (o.num 9 = 1) p.1 (if p.2.hit && decide (p.2.leaf < nb) then some p.2.leaf else none))
        ⟨List.replicate nb [], [], 0⟩
      let ws := ((List.range nb).map fun b => ((o.locOf 5).plus (8 * cap * b), (nth r.out [] b).flatMap (leBytes 8))) ++
        [(o.locOf 6, (r.out.map List.length).flatMap (leBytes 4)),
         (o.locOf 7, (r.spill.take spillCap).flatMap (leBytes 8))]
      s.accessing k errs (writeAccs ws) fun s =>
        let s := s.writeAll ws
        let s := (List.range n).foldl (fun s i => s.modTile (posTile tiles (i / chunk)) fun x =>
          x.counted (nth found ⟨false, 0, 0, false, 0, 0⟩ i)) s
        let s := if r.dropped != 0 || spillCap < r.spill.length then
            s.note Ev.DISPATCH_OVERFLOW 0 (s.tileIsland (posTile tiles 0)) (some k.ctx) [] else s
        (s.modOp k fun o => { o with result := [r.spill.length, r.dropped] }).executed k

/-! ## VECTOR (R312, R389) -/

/-- Operands read one after another, with the faults that reading them raises. -/
def State.readAll (s : State) (k : OpKey) (errs : List MemErr) (t0 : Nat) (got : List (List InBlk)) :
    List Ref → (State → List (List InBlk) → State) → State
  | [], f => f s got
  | r :: rest, f => s.loadTensor k errs r t0 fun s bs => s.readAll k errs t0 (got ++ [bs]) rest f

/-- The end of the longest relocation entry of a context that holds a place. -/
def State.regionEnd (s : State) (c : Nat) (l : Loc) : Nat :=
  s.fe.relocs.foldl (fun e r =>
    if r.ctx = c && r.host = l.host && decide (r.base ≤ l.addr) && decide (l.addr < r.base + r.len) then max e (r.base + r.len)
    else e) l.addr

/-- The bytes of a VECTOR program: those listed from its place to the end of its region. -/
def State.programAt (s : State) (c : Nat) (l : Loc) : List (Nat × Nat) :=
  let e := s.regionEnd c l
  (if l.host then s.hostMem else s.hbm).filterMap fun x =>
    if decide (l.addr ≤ x.1) && decide (x.1 < e) then some (x.1 - l.addr, x.2.toNat) else none

/-- Operands written one after another with the results of a program (log entry 3): `out n i` is the FP32 result for element
`i` of operand `n`. A BF16 result is rounded to nearest even (R117). -/
def State.writeVectors (s : State) (k : OpKey) (errs : List MemErr) (o : Op) (noRot : Bool) (out : Nat → Nat → BitVec 32) :
    Nat → List Ref → (State → State) → State
  | _, [], f => f s
  | n, r :: rest, f =>
    match r.tensor with
    | none => s.writeVectors k errs o noRot out (n + 1) rest f
    | some t =>
      let r := { r with tensor := some { t with sr := t.sr && !(t.managed.isNone && t.fmt = 9) } }
      let vals := (List.range t.elements).map fun i => f32Val (out n i).toNat
      s.encodeTensor k errs o r vals (s.encTile o) noRot (fun _ => SrcBlk.fresh true)
        fun s => s.writeVectors k errs o noRot out (n + 1) rest f

/-- VECTOR: reads its operands and writes those with WRITE. `maxPos` is the largest position its program computes. -/
def opVector (k : OpKey) (maxPos : Nat) (errs : List MemErr) (s : State) : State :=
  match s.opIs k Cls.TENSOR 2 .running with
  | none => s
  | some o =>
    let t0 := nth o.tiles 0 0
    let xs := (o.opnds.drop 2).filterMap fun x => match x with
      | .ref r => some r
      | _ => none
    let rs := xs.filter fun r => !r.write
    let tensors := fun (l : List Ref) => l.filterMap (·.tensor)
    if !s.checksPass o then s
    else if 1048575 < maxPos then s.opFault k Ev.POS_RANGE 0 (s.tileIsland t0) []
    else
      s.asFetched o fun s =>
      s.sramMet k o.tiles errs fun s =>
      s.accessing k errs [⟨false, o.locOf 1, 1⟩] fun s =>
        s.readAll k errs t0 [] rs fun s got =>
          let s := (tensors rs).foldl (fun s t => s.countDecoded o t) (s.code8Note k t0 got.flatten)
          let reads := (rs.zip got).map fun p => match p.1.tensor with
            | some t => (t.plainVals s.seeds p.2).map f32Of
            | none => []
          let run : Config.VectorRun :=
            { nums := (span 8 4).map o.num, program := s.programAt k.ctx (o.locOf 1), reads := reads, step := o.step,
              shapes := (tensors xs).map fun t => (t.fmt, t.elements, t.managed.isSome)
              seed := s.rd Reg.SC_SEED_LO.SEED + 2 ^ 64 * s.rd Reg.SC_SEED_HI.SEED }
          s.writeVectors k errs o ((tensors rs).any (·.isSparse)) (Config.vectorOut run) 0 (xs.filter (·.write))
            fun s => s.executed k

def execMatmul (k : OpKey) (errs : List MemErr) (s : State) : Out := .next (opMatmul k errs s)
def execStealRequest (k : OpKey) (pos : Nat) (s : State) : Out := .next (opStealRequest k pos s)
def execStolenUnitResult (k : OpKey) (i after : Nat) (s : State) : Out := .next (opStolenUnitResult k i after s)
def execResidueReplay (t : Nat) (chk : PairCheck) (s : State) : Out := .next (opResidueReplay t chk s)
def execDispatch (k : OpKey) (flips : List SlotFlip) (errs : List MemErr) (s : State) : Out :=
  .next (opDispatch k flips errs s)
def execVector (k : OpKey) (maxPos : Nat) (errs : List MemErr) (s : State) : Out := .next (opVector k maxPos errs s)

end Sys2Proof.Machine
end

