-- ==== Sys2Proof/Machine/Scoring.lean ====
section
/-! DEFINITION. Tree-ensemble scoring: the binner, key assembly, leaves, summation and link; SCORE streams and their result
rings (R209 to R246). -/

namespace Sys2Proof.Machine

/-! ## The exponential function, correctly rounded (R225) -/

/-- Fraction bits of the fixed-point search. -/
def expBits : Nat := 320

/-- The Taylor terms of `e^x` summed in fixed point: index, term, sum. -/
def expTaylor (x : Int) : Nat → Nat → Int → Int → Int
  | 0, _, _, sum => sum
  | n + 1, i, term, sum =>
    let term := term * x / (2 ^ expBits : Nat) / (i : Int)
    expTaylor x n (i + 1) term (sum + term)

/-- `v` squared `n` times in fixed point. -/
def squares : Nat → Int → Int
  | 0, v => v
  | n + 1, v => squares n (v * v / (2 ^ expBits : Nat))

/-- Bounds of `e^z` in fixed point, for `|z|` at most 104 with `z.e` at least -312: the value over 256 by Taylor's series,
then squared eight times. -/
def expBounds (z : Dy) : Int × Int :=
  let x := z.mantAt (8 - (expBits : Int))
  let one : Int := (2 ^ expBits : Nat)
  let v := squares 8 (expTaylor x 60 1 one one)
  let e := v / (2 ^ 150 : Nat) + 1
  (v - e, v + e)

def fixDy (v : Int) : Dy := ⟨v, -(expBits : Int)⟩

/-- The FP32 result between two bounds: theirs where they round alike, else a free value (log entry 5). -/
def roundBetween (lo hi : Dy) (code arg : Nat) : Nat :=
  let a := f32Of (.fin lo)
  if a = f32Of (.fin hi) then a else (Config.hardRound code arg).toNat

/-- `e^z` of an exact number, one rounding. -/
def expDy (z : Dy) (arg : Nat) : Nat :=
  if z.isZero then 0x3F800000
  else if (Dy.ofNat 104).lt z then 0x7F800000
  else if z.lt ⟨-104, 0⟩ then 0
  else
    let b := expBounds z
    roundBetween (fixDy b.1) (fixDy b.2) 3 arg

/-- `1 / (1 + e^(−z))` of an exact number, one rounding. -/
def sigmoidDy (z : Dy) (arg : Nat) : Nat :=
  if z.isZero then 0x3F000000
  else if (Dy.ofNat 30).lt z then 0x3F800000
  else if z.lt ⟨-104, 0⟩ then 0
  else
    let b := expBounds z.neg
    let one : Int := (2 ^ expBits : Nat)
    let inv := fun (v : Int) => one * one / (one + v)
    roundBetween (fixDy (inv b.2)) (fixDy (inv b.1 + 1)) 1 arg

/-! ## The link (R225, R226) -/

def nan32 : Nat := 0x7FC00000
def inf32 : Nat := 0x7F800000

/-- A function of one output: NaN gives NaN, infinities give their limits. -/
def link1 (f : Dy → Nat → Nat) (top bot z : Nat) : Nat :=
  match f32Val z with
  | .nan => nan32
  | .inf neg => if neg then bot else top
  | .nzero => f Dy.zero z
  | .fin d => f d z

def softmax (z : List Nat) : List Nat :=
  let k := z.length
  if z.any f32IsNaN then List.replicate k nan32
  else
    let tops := count (· = inf32) z
    if 0 < tops then z.map fun v => if v = inf32 then ratToF32 (Dy.ofNat 1) (Dy.ofNat tops) else 0
    else
      let fin := z.filterMap fun v => if (f32Val v).isFinite then some (f32Val v).dy else none
      match fin with
      | [] => List.replicate k (ratToF32 (Dy.ofNat 1) (Dy.ofNat k))
      | d :: ds =>
        let m := ds.foldl Dy.max d
        let e := z.map fun v => if (f32Val v).isFinite then expDy ((f32Val v).dy.sub m) v else 0
        let sum := e.foldl f32Add 0
        e.map fun v => ratToF32 (f32Val v).dy (f32Val sum).dy

def linkOf (code : Nat) (z : List Nat) : List Nat :=
  match code with
  | 1 => z.map (link1 sigmoidDy 0x3F800000 0)
  | 2 => softmax z
  | 3 => z.map (link1 expDy inf32 0)
  | _ => z.map fun v => if f32IsNaN v then nan32 else v

/-! ## Bins and keys (R210 to R214, R221) -/

/-- The bin of a feature's stored bits under the tables in a binner's SRAM (R211, R212). -/
def Feat.bin (f : Feat) (tbl : Memory) (bits : Nat) : Nat :=
  let entry := fun (i : Nat) => tbl.rdLE (f.ptr + f.size * i) f.size
  if f.ty = 4 then
    if bits = 0x80000000 then f.nanBin else (findPos (fun i => entry i = bits) (List.range 15)).getD 15
  else
    match f.value bits with
    | none => f.nanBin
    | some x => Sys2Proof.Machine.count (fun i => match f.value (entry i) with
      | some t => t.le x
      | none => false) (List.range f.count)

/-- The bin of a feature of a record; a feature that the stride cuts off is missing (R211). -/
def Feat.binIn (f : Feat) (tbl : Memory) (bytes : List Nat) : Nat :=
  if bytes.length < f.off + f.size then f.nanBin else f.bin tbl (leAt bytes f.off f.size)

def t4Key (b : Nat) : Nat := 2 ^ min b 15 - 1

/-- The key bits of one named field. -/
def KeyField.bits (k : KeyField) (bins : List Nat) : Nat :=
  let b := nth bins 0 k.feat
  match k.enc with
  | .t4 => t4Key b * 2 ^ (16 * k.field)
  | .t8 => t4Key (b / 16) * 2 ^ (16 * k.field) + t4Key (b % 16) * 2 ^ (16 * (k.field + 1))
  | .c16 => 2 ^ (b % 16) * 2 ^ (16 * k.field)
  | .raw4 => b % 16 * 2 ^ (16 * k.field)

/-- The key of a layout; on a shared bank of `fields` key fields the last one carries the tree's slot. -/
def layoutKey (l : List KeyField) (bins : List Nat) (slot : Option Nat) (fields : Nat) : Nat :=
  l.foldl (fun key k => key ||| k.bits bins) 0 ||| match slot with
    | some v => v % 16 * 2 ^ (16 * (fields - 1))
    | none => 0

/-! ## One record through an ensemble (R223, R224, R229, R240) -/

/-- The part of an ensemble that one segment holds. -/
structure ScorePart where
  plan : ScorePlan
  tiles : List Nat
  deriving DecidableEq, Repr

/-- What the chain has gathered: the outputs, the trees flagged, and per flag the first tree with its tile. -/
structure Chain where
  acc : List Nat
  tree : Nat
  ties : Nat
  misses : Nat
  multis : Nat
  flagged : Nat
  tie1 : Option (Nat × Nat)
  miss1 : Option (Nat × Nat)
  multi1 : Option (Nat × Nat)
  trunc : Bool
  lists : List (List Nat)
  deriving DecidableEq, Repr

/-- The leaf row of a winner: none where its index is out of range (R223). -/
def ScorePlan.leaf (p : ScorePlan) (pos : Nat) (t : Tile) (ref : Nat) : Option (List Nat) :=
  let i := ref % 2 ^ 15
  let l := p.leavesAt pos
  if (if bitOf ref 15 then l.count1 else l.count0) ≤ i then none
  else
    let base := (if bitOf ref 15 then l.base1 else l.base0) + 2 * p.outputs * i
    some ((List.range p.outputs).map fun k => f32Of (bf16Val (t.sram.rdLE (base + 2 * k) 2)))

/-- The bank tile at a group position as a search finds it. -/
def State.bankAt (s : State) (part : ScorePart) (flips : List SlotFlip) (b : Nat) : Tile :=
  (s.tile (posTile part.tiles b)).flipped (posTile part.tiles b) flips

/-- A bank in iterate mode is a rule bank, whatever it holds (R204, R229). -/
def Tile.isRule (t : Tile) : Bool := t.rd TReg.TMA_CFG.ITER = 1

/-- One tree searched in the banks that serve it as tree banks, and its leaf added. -/
def State.scoreTree (s : State) (part : ScorePart) (flips : List SlotFlip) (bins : List Nat) (t : TreePlan) (c : Chain) :
    State × Chain :=
  let tile := posTile part.tiles
  let found := (t.banks.filter fun b => !(s.bankAt part flips b).isRule).map fun b =>
    let x := s.bankAt part flips b
    (b, x.search (layoutKey t.layout bins (part.plan.slotAt t b) (8 * x.span)))
  let s := found.foldl (fun s f => s.modTile (tile f.1) fun x =>
    let x := x.counted f.2
    if f.2.hit then x else x.inc TReg.SCORE_TILE_COUNT.MISSES 1) s
  let hits := found.filter fun f => f.2.hit
  let c := { c with tree := c.tree + 1 }
  let no := c.tree - 1
  let first := fun (o : Option (Nat × Nat)) (b : Bool) (pos : Nat) => if b && o.isNone then some (no, tile pos) else o
  match hits with
  | [] =>
    (s, { c with misses := c.misses + 1, flagged := c.flagged + 1, miss1 := first c.miss1 true (nth t.banks 0 0) })
  | w :: more =>
    let multi := !more.isEmpty
    let leaf := part.plan.leaf w.1 (s.tile (tile w.1)) w.2.leaf
    let miss := leaf.isNone
    let acc := match leaf with
      | none => c.acc
      | some row => (List.range c.acc.length).map fun k => f32Add (nth c.acc 0 k) (nth row 0 k)
    (s, { c with
      acc := acc, ties := c.ties + b2n w.2.tie, misses := c.misses + b2n miss, multis := c.multis + b2n multi
      flagged := c.flagged + b2n (w.2.tie || miss || multi), tie1 := first c.tie1 w.2.tie w.1
      miss1 := first c.miss1 miss w.1, multi1 := first c.multi1 multi w.1 })

/-- The eight result words of a rule bank (R229). -/
def Tile.ruleList (t : Tile) (key : Nat) : List Nat :=
  let n := min ((t.search key).total) 8
  (List.range 8).map fun k => if k < n then (t.searchRank key k).word else 0

/-- The layout and slot under which a bank in iterate mode is searched: the plan's for a rule bank, else those of the lowest
tree it holds (log entry 125). -/
def ScorePlan.ruleKey (p : ScorePlan) (pos : Nat) : Option (List KeyField × Option Nat) :=
  if p.ruleBanks.contains pos then some (p.ruleLayout, none)
  else (p.treesAt pos).head?.map fun t => (t.2.layout, p.slotAt t.2 pos)

/-- One rule bank searched. The tile sequencer steps the cursor through the ranks it reports: TMA_ICURSOR and TMA_IRESULT keep
the last one (R204, log entry 125). -/
def State.scoreRule (s : State) (part : ScorePart) (flips : List SlotFlip) (bins : List Nat) (b : Nat) (c : Chain) : State × Chain :=
  let x := s.bankAt part flips b
  match (if x.isRule then part.plan.ruleKey b else none) with
  | none => (s, c)
  | some l =>
    let key := layoutKey l.1 bins l.2 (8 * x.span)
    let f := x.search key
    let last := min f.total 8 - 1
    (s.modTile (posTile part.tiles b) fun t =>
        ((t.counted f).wr TReg.TMA_ICURSOR.CURSOR last).wr TReg.TMA_IRESULT.RESULT (x.searchRank key last).word,
      { c with lists := c.lists ++ [x.ruleList key], trunc := c.trunc || decide (8 < f.total) })

/-- One segment of the chain; `bins` gives each feature's bin. Rule banks report in bank order and add nothing. -/
def State.scorePart (s : State) (flips : List SlotFlip) (part : ScorePart) (bins : List Nat) (c : Chain) : State × Chain :=
  let a := part.plan.trees.foldl (fun (a : State × Chain) t => a.1.scoreTree part flips bins t a.2) (s, c)
  (List.range part.tiles.length).foldl (fun (a : State × Chain) b => a.1.scoreRule part flips bins b a.2) a

def Chain.start (k : Nat) : Chain :=
  ⟨List.replicate k 0, 0, 0, 0, 0, 0, none, none, none, false, []⟩

/-- A record through every part, then base and link of the last part: outputs and flags. -/
def State.evaluate (s : State) (flips : List SlotFlip) (parts : List (ScorePart × List Nat)) : State × Chain × List Nat :=
  let last := match parts.getLast? with
    | some p => p.1.plan
    | none => ⟨0, 0, [], [], [], 0, [], [], [], 0, 0, 0⟩
  let a := parts.foldl (fun (a : State × Chain) p => a.1.scorePart flips p.1 p.2 a.2) (s, Chain.start last.outputs)
  let z := (List.range last.outputs).map fun k => f32Add (nth a.2.acc 0 k) (nth last.base 0 k)
  (a.1, a.2, linkOf last.link z)

/-! ## SCORE streams (R228, R230 to R235) -/

def seq48 (v : Nat) : Nat := v % 2 ^ 48

/-- The step of a replica through the records: the replicas, or the pairs under CHECK. -/
def Op.stride (o : Op) : Nat := if o.num 9 = 1 then (o.num 6 + 1) / 2 else o.num 6 + 1

/-- The first record at or after `s0` that replica `r` takes. -/
def Op.firstRec (o : Op) (s0 r : Nat) : Nat :=
  let n := o.stride
  let q := (if o.num 9 = 1 then r / 2 else r) % n
  s0 + (q + n - s0 % n) % n

def State.streamOf (s : State) (k : OpKey) : Option Stream := s.se.streams.find? fun x => x.keys.contains k

def State.modStream (s : State) (x : Stream) (f : Stream → Stream) : State :=
  { s with se := { s.se with streams := s.se.streams.map fun y =>
      if y.ctx = x.ctx && y.seq = x.seq && y.ring = x.ring then f y else y } }

/-- All ops of a stream run. -/
def Stream.started (x : Stream) (o : Op) : Bool := x.keys.length = (o.num 6 + 1) * (o.num 8 + 1)

/-- The host TAIL read anew, at a poll or when a stream begins. -/
def State.readTail (s : State) (k : OpKey) (errs : List MemErr) (out : Loc) (f : State → Nat → State) : State :=
  s.accessing k errs [⟨false, out.plus 8, 8⟩] fun s => f s (s.readNat (out.plus 8) 8)

/-- SCORE: its segment joins the stream; the last op to run starts it at CONS (R232, R234). -/
def opScore (k : OpKey) (errs : List MemErr) (s : State) : State :=
  match s.opIs k Cls.FILTAS 0 .running with
  | none => s
  | some o =>
    if o.work != .none then s
    else
      let ring := o.locOf 1
      let s := s.modOp k fun o => { o with work := .pending 0 }
      let x : Stream := match s.se.streams.find? fun x => x.ctx = k.ctx && x.seq = k.seq && x.ring = ring with
        | some x => x
        | none => ⟨k.ctx, k.seq, ring, [], 0, [], [], 0, 0, none⟩
      let others := s.se.streams.filter fun y => !(y.ctx = k.ctx && y.seq = k.seq && y.ring = ring)
      let x := { x with keys := x.keys ++ [k] }
      let put := fun (s : State) (x : Stream) => { s with se := { s.se with streams := others ++ [x] } }
      if !x.started o then put s x
      else
        s.accessing k errs [⟨false, ring, 64⟩] fun s =>
          let s0 := seq48 (s.readNat (ring.plus 0x10) 8)
          let x := { x with s0 := s0, done := (List.range (o.num 6 + 1)).map (o.firstRec s0) }
          if o.num 10 = 0 then s.readTail k errs (o.locOf 12) fun s t => put s { x with tail := t } else put s x

/-- The ops of one replica, by ascending segment. -/
def State.replicaOps (s : State) (x : Stream) (r : Nat) : List (OpKey × Op) :=
  sortBy (fun a b => decide (a.2.num 7 ≤ b.2.num 7))
    ((x.keys.filterMap fun k => (s.op? k).map fun o => (k, o)).filter fun p => p.2.num 5 = r)

/-- The scoring plan of the image that configured a group. -/
def State.planOf (s : State) (tiles : List Nat) : Option ScorePlan :=
  ((s.tile (nth tiles 0 0)).cfg.bind fun c => mapGet? s.configs c).bind (·.score)

/-- Record `n` exists for the stream: before COUNT, before EOS. -/
def State.beforeEnd (s : State) (x : Stream) (o : Op) (n : Nat) : Bool :=
  let eos := s.readNat (x.ring.plus 8) 8
  (o.num 4 = 0 || decide (n < x.s0 + o.num 4)) && (!bitOf eos 63 || decide (n < seq48 eos))

/-- The outputs and flags that two replicas of a pair must agree on (R241). -/
def ScoreRes.same (a b : ScoreRes) : Bool :=
  a.y = b.y && a.tie = b.tie && a.miss = b.miss && a.multi = b.multi && a.trunc = b.trunc

/-- The counters and events of one flag of a record (R240, R565). -/
def State.flagNote (s : State) (c typ n rep trees : Nat) (seen cnt : Fld) (at_ : Option (Nat × Nat)) : State :=
  match at_ with
  | none => s
  | some (tree, tile) =>
    ((s.inc cnt trees).wr seen 1).note typ 3 (s.tileIsland tile) (some c) [(8, n), (2, tree), (1, rep)]

def State.flagNotes (s : State) (c n rep : Nat) (ch : Chain) : State :=
  let s := s.flagNote c Ev.FILTAS_TIE n rep ch.ties Reg.FILTAS_SCORE_STATUS.TIE_SEEN Reg.FILTAS_SCORE_COUNT1.TIE_TREES ch.tie1
  let s := s.flagNote c Ev.FILTAS_MISS n rep ch.misses Reg.FILTAS_SCORE_STATUS.MISS_SEEN
    Reg.FILTAS_SCORE_COUNT1.MISS_TREES ch.miss1
  s.flagNote c Ev.FILTAS_MULTI n rep ch.multis Reg.FILTAS_SCORE_STATUS.MULTI_SEEN Reg.FILTAS_SCORE_COUNT2.MULTI_TREES ch.multi1

/-- The comparison of a pair's results once both are there. -/
def State.pairNote (s : State) (x : Stream) (o : Op) (r : ScoreRes) (src : Nat) : State :=
  if o.num 9 = 0 then s
  else
    match x.results.find? fun q => q.num = r.num && q.replica != r.replica with
    | none => s
    | some q =>
      if q.same r then s
      else
        ((s.inc Reg.FILTAS_SCORE_COUNT2.MISMATCHES 1).wr Reg.FILTAS_SCORE_STATUS.MISMATCH_SEEN 1).note Ev.FILTAS_MISMATCH 3 src
          (some x.ctx) [(8, r.num), (1, r.replica / 2 * 2), (1, r.replica / 2 * 2 + 1)]

/-- A replica scores its next record. `flipped` is what a hardware fault changes in the replica's output words: their number
and an XOR mask; word 8 holds the flags (R227, R241). Under CHECK the even replica's flags are counted (log entry 63). -/
def opScoreRecord (k : OpKey) (replica : Nat) (flipped : List (Nat × Nat)) (flips : List SlotFlip) (errs : List MemErr) (s : State) :
    State :=
  match s.op? k, s.streamOf k with
  | some o, some x =>
    let ops := s.replicaOps x replica
    let n := nth x.done 0 replica
    let bytes := 64 * (o.num 3 + 1)
    let loc := x.ring.plus (64 + bytes * (n % o.num 2))
    let tiles := ops.flatMap fun p => p.2.tiles
    let waits := tiles.any fun t => (s.tile t).edits.any fun e => match e.gate with
      | some g => decide (g ≤ n)
      | none => false
    let held := tiles.any s.heldTile
    if o.num 6 < replica || !x.started o || waits || held || !s.beforeEnd x o n || seq48 (s.readNat x.ring 8) ≤ n then s
    else
      s.sramMet k tiles errs fun s =>
      s.accessing k errs [⟨false, x.ring, 64⟩, ⟨false, loc, bytes⟩] fun s =>
        let s := s.streamed [⟨false, loc, bytes⟩]
        let rec_ := s.read loc bytes
        let parts := ops.filterMap fun p => (s.planOf p.2.tiles).map fun q =>
          (ScorePart.mk q p.2.tiles, q.feats.map fun f => f.binIn (s.tile (posTile p.2.tiles q.binner)).sram rec_)
        let e := s.evaluate flips parts
        let ch := e.2.1
        let bad := fun i => flipped.foldl (fun m f => if f.1 = i then m ^^^ f.2 else m) 0
        let y := (List.range 8).map fun i => nth e.2.2 0 i ^^^ (bad i % 2 ^ 32)
        let flag := fun (v : Nat) (b : Nat) => decide (0 < v) != bitOf (bad 8) b
        let r : ScoreRes := ⟨n, replica, y, flag ch.ties 0, flag ch.misses 1, flag ch.multis 2, ch.trunc != bitOf (bad 8) 3,
          min ch.flagged 0xFFFF, ch.lists⟩
        let s := tiles.foldl (fun s t => s.modTile t fun y => y.inc TReg.SCORE_TILE_COUNT.RECORDS 1) e.1
        let s := if o.num 9 = 0 || replica % 2 = 0 then s.flagNotes k.ctx n replica ch else s
        let s := s.pairNote x o r (s.tileIsland (nth tiles 0 0))
        s.modStream x fun x => { x with results := x.results ++ [r], done := setAt x.done replica (n + o.stride) }
  | _, _ => s

/-! ## Result delivery (R235 to R239) -/

/-- Bytes of a result entry, with one list of 64 bytes per rule bank in a FULL one. -/
def ScoreRes.size (o : Op) (r : ScoreRes) : Nat :=
  if o.num 10 = 2 then 8 else if o.num 11 = 1 then 32 else 64 + 64 * r.lists.length

/-- The training weight of R238; a NaN WMAX, the sign of a weight that is −0, and the reserved codes of WEIGHT_OUT leave a
free value (log entry 64). -/
def weightOf (free wOut wmax : Nat) (y : List Nat) : Nat :=
  let v := nth y 0 wOut
  let fr := (Config.freeWord free).toNat
  if wOut = 15 then 0x3F80
  else if 8 ≤ wOut then fr % 2 ^ 16
  else if f32IsNaN v then 0
  else if f32IsNaN wmax then fr % 2 ^ 16
  else
    let m := if f32Lt v 0 then 0 else v
    let m := if f32Lt wmax m then wmax else m
    if m = 0x80000000 then fr % 2 * 0x8000 else bf16Of (f32Val m)

/-- A training entry (R238). -/
def ScoreRes.training (r : ScoreRes) (free mismatch : Nat) (cur : List Nat) : Nat :=
  let b8 := leAt cur 8 1
  let y := nth r.y 0 (b8 % 8)
  let keepT := leAt cur 0 4
  let err := r.tie || r.miss || r.multi || mismatch != 0 || f32IsNaN y
  let ge := !f32IsNaN y && !f32IsNaN keepT && !f32Lt y keepT
  let keep := if err then bitOf (leAt cur 9 1) 0 else if bitOf b8 3 then f32Lt y keepT else ge
  let w := if keep then weightOf free (b8 / 16) (leAt cur 4 4) r.y else 0
  w + b2n keep * 2 ^ 16 + b2n err * 2 ^ 17 + r.num % 2 ^ 32 * 2 ^ 32

/-- The bytes of a result entry. -/
def ScoreRes.bytes (o : Op) (r : ScoreRes) (free mismatch : Nat) (cur : List Nat) : List Nat :=
  let ys := r.y.flatMap (leBytes 4)
  if o.num 10 = 2 then leBytes 8 (r.training free mismatch cur)
  else if o.num 11 = 1 then ys
  else
    leBytes 8 (seq48 r.num + b2n r.tie * 2 ^ 48 + b2n r.miss * 2 ^ 49 + b2n r.multi * 2 ^ 50 + mismatch * 2 ^ 51 +
      b2n r.trunc * 2 ^ 52) ++ leBytes 2 r.anomalies ++ List.replicate 6 0 ++ ys ++ List.replicate 16 0 ++
    r.lists.flatMap fun l => l.flatMap (leBytes 8)

/-- A flip that waited beyond a stream's last record takes effect at its end (R200). -/
def State.clampFlips (s : State) (tiles : List Nat) (last : Nat) : State :=
  s.setBufs (s.fe.bufs.map fun b => { b with ops := b.ops.map fun o =>
    match o.work with
    | .edit left (some r) bad => if o.tiles.any tiles.contains then { o with work := .edit left (some (min r last)) bad } else o
    | _ => o })

/-- A stream ends: its ops complete together (R234). -/
def State.endStream (s : State) (x : Stream) : State :=
  let s := { s with se := { s.se with streams := s.se.streams.filter fun y => !(y.ctx = x.ctx && y.seq = x.seq && y.ring = x.ring) } }
  let tiles := x.keys.flatMap fun k => match s.op? k with
    | some o => o.tiles
    | none => []
  x.keys.foldl State.completeOp (s.clampFlips tiles (x.s0 + x.delivered))

/-- The ring has room for the next entry. -/
def State.ringRoom (s : State) (x : Stream) (o : Op) : Bool :=
  let tail := if o.num 10 = 0 then x.tail else s.readNat ((o.locOf 12).plus 8) 8
  decide ((x.delivered + 2 ^ 64 - tail) % 2 ^ 64 < o.num 13)

/-- The next record's result goes to the ring, then DONE, then CONS; a full ring stalls the stream. -/
def opScoreResultDeliver (k : OpKey) (errs : List MemErr) (s : State) : State :=
  match s.op? k, s.streamOf k with
  | some o, some x =>
    let n := x.s0 + x.delivered
    let rep := if o.num 9 = 1 then 2 * (n % o.stride) else n % o.stride
    if !x.started o then s
    else if !s.beforeEnd x o n then s.endStream x
    else
      let other := x.results.find? fun r => r.num = n && r.replica = rep + 1
      match x.results.find? fun r => r.num = n && r.replica = rep with
      | none => s
      | some r =>
        if o.num 9 = 1 && other.isNone then s
        else if !s.ringRoom x o then s.modStream x fun x => { x with stall := some (x.stall.getD s.now) }
        else
          let mismatch := match other with
            | some q => if o.num 9 = 1 then b2n (!q.same r) else 0
            | none => 0
          let out := o.locOf 12
          let cur := if o.num 10 = 2 then [⟨false, o.locOf 14, 16⟩] else []
          s.accessing k errs cur fun s =>
            let bytes := r.bytes o s.free mismatch (s.read (o.locOf 14) 16)
            let s := { s with free := s.free + 1 }
            let ws := [(out.plus (64 + r.size o * (x.delivered % o.num 13)), bytes), (out, leBytes 8 (x.delivered + 1)),
              (x.ring.plus 0x10, leBytes 8 (seq48 (n + 1)))]
            s.accessing k errs (writeAccs ws) fun s =>
              let s := (s.writeAll ws).inc Reg.FILTAS_SCORE_COUNT0.RESULTS 1
              let s := x.keys.foldl State.restartClock (s.stallEnds x.stall)
              let y := { x with delivered := x.delivered + 1, stall := none,
                                results := x.results.filter fun r => r.num != n }
              let s := s.modStream x fun _ => y
              if s.beforeEnd y o (n + 1) then s else s.endStream y
  | _, _ => s

def execScore (k : OpKey) (errs : List MemErr) (s : State) : Out := .next (opScore k errs s)
def execScoreRecord (k : OpKey) (replica : Nat) (flipped : List (Nat × Nat)) (flips : List SlotFlip) (errs : List MemErr)
    (s : State) : Out := .next (opScoreRecord k replica flipped flips errs s)
def execScoreResultDeliver (k : OpKey) (errs : List MemErr) (s : State) : Out := .next (opScoreResultDeliver k errs s)

end Sys2Proof.Machine
end

