-- ==== Sys2Proof/Machine/Policy.lean ====
section
/-! DEFINITION. The numerics policy: scoring of statistics records, decision arrays and their step boundary, the generation
flip, shadow calibration and its log (R149 to R178). -/

namespace Sys2Proof.Machine

/-! ## Decision entries (R155, R159) -/

/-- The index of the largest of some FP32 values, ties to the lower index; none when one is NaN. -/
def argMax32 (o : List Nat) : Option Nat :=
  if o.any f32IsNaN then none
  else some ((List.range o.length).foldl (fun b i => if f32Lt (nth o 0 b) (nth o 0 i) then i else b) 0)

/-- REQUESTED of R159. -/
def requestedOf (o : List Nat) (applied : Nat) : Nat :=
  match argMax32 o with
  | some w => if w ≤ 6 then w else applied
  | none => applied

/-- FB_SCORE of R159. -/
def fbScore (o : List Nat) (req : Nat) : Nat :=
  let v := f32Add (f32Add (nth o 0 4) (nth o 0 5)) (nth o 0 6)
  let held := match argMax32 o with
    | some w => decide (6 < w)
    | none => true
  let v := if held && decide (4 ≤ req) then f32Add v (nth o 0 7) else v
  if o.any f32IsNaN || f32IsNaN v then 0 else v

/-- A decision entry with RANK 0. -/
def entryOf (o : List Nat) (applied : Nat) : Nat :=
  let req := requestedOf o applied
  let dem := if req < 4 then req else (argMax32 (o.take 4)).getD 0
  fbScore o req + req * 2 ^ 32 + dem * 2 ^ 36 + 2 ^ 40

/-! ## Staging slots (R168) -/

/-- Staging slot `k` of a tile freed; a sample that waits for one takes it (R168). -/
def State.freeSlot (s : State) (t k : Nat) : State :=
  let left := (s.tile t).samples.filter fun x => x.slot != some k
  match left.find? fun x => x.wait.isSome with
  | none => s.modTile t fun y => { y with samples := left }
  | some w =>
    let s := s.modTile t fun y => { y with samples := left.map fun x => if x = w then { x with slot := some k, wait := none } else x }
    s.write (s.stageLoc t k) (w.wait.getD [])

/-! ## Scoring of a record (R152, R159, R160) -/

/-- The groups of policy tiles of a die, one for each FULL load, that are not loading: configuration numbers. -/
def State.policyGroups (s : State) (d : Nat) : List Nat :=
  ((s.tiles.filter fun p => tileDie p.1 = d && p.2.duty = 2 && (p.2.st = .ready || p.2.st = .busy)).filterMap
    fun p => p.2.cfg).eraseDups

/-- The tiles that a configuration was loaded onto, by group position. -/
def State.cfgTiles (s : State) (c n : Nat) : List Nat :=
  (List.range n).map fun pos => match s.tiles.find? fun p => p.2.cfg = some c && p.2.pos = pos with
    | some p => p.1
    | none => 0

/-- The features of a record binned by a policy ensemble (R242). -/
def State.policyBins (s : State) (part : ScorePart) (feats : List Nat) : List Nat :=
  (part.plan.feats.zip feats).map fun p => p.1.bin (s.tile (posTile part.tiles part.plan.binner)).sram p.2

/-- What the scoring of a record leaves with a sample of the same patch. -/
def State.sampleScored (s : State) (t : Nat) (r : StatRec) (sc : Scored) : State :=
  s.modTile t fun y => { y with samples := y.samples.map fun x =>
    if x.tensor = r.tensor && x.patch = r.patch && x.step = r.step && x.hasRec && x.scored.isNone then { x with scored := some sc }
    else x }

/-- The oldest record of an encoding tile is scored on a replica of its die and its entry written into the pending slot. The
device's choice among the replicas is a free value (log entry 69); a replica with a held island waits (R146, R177). -/
def opPolicyRecordScore (die tile : Nat) (flips : List SlotFlip) (errs : List MemErr) (s : State) : State :=
  match (s.tile tile).recs with
  | [] => s
  | r :: rest =>
    let groups := s.policyGroups die
    if s.stopped || s.heldTile tile || tileDie tile != die || groups.isEmpty then s
    else
      let c := nth groups 0 ((Config.freeWord s.free).toNat % groups.length)
      match (mapGet? s.configs c).bind fun i => i.score.map fun p => (i.segs.length, p) with
      | none => s
      | some (n, p) =>
        let part : ScorePart := ⟨p, s.cfgTiles c n⟩
        if part.tiles.any s.heldTile then s
        else
        let s := { s with free := s.free + 1 }
        s.sramMet r.key (tile :: part.tiles) errs fun s =>
        s.accessing r.key errs [⟨false, ⟨false, r.dec⟩, 64⟩] fun s =>
          let hdr : Loc := ⟨false, r.dec⟩
          let pend := 1 - s.readNat (hdr.plus 4) 1 % 2
          let e := s.evaluate flips [(part, s.policyBins part r.feats)]
          let o := e.2.2
          let entry := entryOf o (nth r.feats 0 8)
          let ws := [(decEntryLoc hdr r.patches pend r.patch, leBytes 8 entry),
            (hdr.plus 0x14, leBytes 4 (min (s.readNat (hdr.plus 0x14) 4) r.budget))]
          e.1.accessing r.key errs (writeAccs ws) fun s =>
            let s := s.writeAll ws
            let s := part.tiles.foldl (fun s t => s.modTile t fun y => y.inc TReg.SCORE_TILE_COUNT.RECORDS 1) s
            let s := (s.modTile tile fun y => { y with recs := rest }).modTile tile fun y => y.inc TReg.CONV_COUNT2.RECORDS 1
            let s := s.inc Reg.POLICY_COUNT0.RECORDS 1
            let s := if s.sc.touched.any fun t => t.1 = r.dec then s
              else { s with sc := { s.sc with touched := s.sc.touched ++ [(r.dec, r.patches, r.tensor)] } }
            s.sampleScored tile r ⟨bitsOf entry 32 4, entry % 2 ^ 32, s.rd Reg.POLICY_CTRL.ACTIVE_GEN, o⟩

/-! ## Shadow entries (R169, R170) -/

/-- The values that a block decodes to when it is encoded under code `c`, outside any rotation. -/
def shadowDec (c n : Nat) (sign : Nat) (x : List Num) : List Num :=
  if c < 4 then
    let rot := c = 1 || c = 3
    let v := (InBlk.reQ (if rot then rotateFwd sign x else x) (if 2 ≤ c then some n else none) (fun _ => .rne)).vals
    if rot then rotateInv sign v else v
  else
    let f := fp8Fmt (c + 1)
    let e := mxfp8Encode f x (fun _ => .rne)
    mxfp8Vals f e.1 e.2.1

/-- ERR[c] of a reference: the exact quotient rounded once; a reference or an encode that is not finite leaves a free value
(log entry 67). -/
def shadowErr (ref : List Num) (dec : List Num) (free : Nat) : Nat :=
  if ref.any (fun v => !v.isFinite) || dec.any (fun v => !v.isFinite) then (Config.freeWord free).toNat % 2 ^ 32
  else
    let den := Dy.sum (ref.map fun v => v.dy.mul v.dy)
    let num := Dy.sum ((ref.zip dec).map fun p => let d := p.2.dy.sub p.1.dy; d.mul d)
    if den.isZero then 0 else ratToF32 num den

/-- The six errors of a staged sample. -/
def State.shadowErrs (s : State) (t : Nat) (x : Sample) (k : Nat) : List Nat :=
  let loc := s.stageLoc t k
  let ref := (List.range x.elements).map fun i => bf16Val (s.readNat (loc.plus (2 * i)) 2)
  let n := (s.tile t).rd TReg.CONV_CFG.OUTL_LOG2
  (List.range 6).map fun c =>
    let dec := ((List.range (ceilDiv x.elements 32)).flatMap fun j =>
      let r := 32 * (128 * x.patch + j) % x.inner / 32
      shadowDec c n (signOf s.seeds (x.tensor, x.step) r) (blockOf ref j)).take x.elements
    shadowErr ref dec (s.free + c)

/-- The shadow work of a staged sample completes: its entry is written and its slot freed. A poisoned staging slot gives a
missed entry (log entry 66). -/
def opShadowEntryDone (t k : Nat) (errs : List MemErr) (s : State) : State :=
  match (s.tile t).samples.find? fun x => x.slot = some k with
  | none => s
  | some x =>
    if s.stopped || s.heldTile t || (x.hasRec && x.scored.isNone) then s
    else
      let s := s.memErrs (errsIn [⟨false, s.stageLoc t k, 2 * x.elements⟩] errs)
      match s.poisonIn (s.stageLoc t k).addr (2 * x.elements) with
      | some p => (((s.poisonRead p).raise Ev.MEM_UE 2 6 (stackIsland (s.stackOf p)) none [(8, p), (1, s.stackOf p)]).calMissed t x).freeSlot t k
      | none =>
        let es := s.shadowErrs t x k
        (State.calEntry { s with free := s.free + 6 } t x (some es)).freeSlot t k

/-! ## The step boundary (R161, R163, R174) -/

/-- The vote waits for a sample: for every one under DET, else for those of ops that sampled DET (R371). -/
def State.shadowWaits (s : State) (det : Bool) : Bool := s.tiles.any fun p => p.2.samples.any fun x => det || x.det

/-- Step 2: entries that have not completed are written as missed. -/
def State.missAll (s : State) : State :=
  s.tiles.foldl (fun s p => (p.2.samples.foldl (fun s x => s.calMissed p.1 x) s).modTile p.1 fun y => { y with samples := [] }) s

/-- An entry is a request of the slot. -/
def isRequest (e : Nat) : Bool := bitOf e 40 && decide (4 ≤ bitsOf e 32 4) && decide (bitsOf e 32 4 ≤ 6)

/-- Request `p` comes before request `q`: higher score, then lower patch; a score that is NaN comes last (log entry 68). -/
def ranksBefore (es : List Nat) (p q : Nat) : Bool :=
  let a := nth es 0 p % 2 ^ 32
  let b := nth es 0 q % 2 ^ 32
  if f32IsNaN a then f32IsNaN b && decide (p ≤ q)
  else f32IsNaN b || f32Lt b a || (!f32Lt a b && decide (p ≤ q))

/-- The entries of a slot ranked (R161). -/
def rankSlot (es : List Nat) : List Nat × Nat :=
  let reqs := sortBy (ranksBefore es) ((List.range es.length).filter fun p => isRequest (nth es 0 p))
  let clear := es.map fun e => e % 2 ^ 41
  (((List.range reqs.length).zip reqs).foldl (fun l r => modifyAt l r.2 (· + r.1 * 2 ^ 41)) clear, reqs.length)

/-- The die whose policy tiles resolve a tensor: tensor identity mod 16, else the next that holds tiles of duty 2 (R163). -/
def State.resolver (s : State) (tensor : Nat) : Option Nat :=
  ((List.range 16).map fun j => (tensor + j) % 16).find? fun d => s.tiles.any fun p => tileDie p.1 = d && p.2.duty = 2

/-- Some tensor's resolution waits: a policy tile of its die stands on a held island (R177). -/
def State.resolveWaits (s : State) : Bool :=
  s.sc.touched.any fun t => match s.resolver t.2.2 with
    | some d => s.tiles.any fun p => tileDie p.1 = d && p.2.duty = 2 && s.heldTile p.1
    | none => false

/-- Step 4 for one tensor: copy, rank, flip of CUR. A poisoned sector stops it before it writes. -/
def State.resolve (s : State) (step dec np : Nat) : State :=
  match s.poisonIn dec (64 + 16 * np) with
  | some p => (s.poisonRead p).raise Ev.MEM_UE 2 6 (stackIsland (s.stackOf p)) none [(8, p), (1, s.stackOf p)]
  | none =>
    let hdr : Loc := ⟨false, dec⟩
    let cur := s.readNat (hdr.plus 4) 1 % 2
    let slot := fun k => (List.range np).map fun p => s.readNat (decEntryLoc hdr np k p) 8
    let old := slot cur
    let new := ((slot (1 - cur)).zip old).map fun e => if bitOf e.1 40 then e.1 else e.2
    let r := rankSlot new
    s.writeAll [(decEntryLoc hdr np (1 - cur) 0, r.1.flatMap (leBytes 8)),
      (decEntryLoc hdr np cur 0, (old.map fun e => e - bitsOf e 40 1 * 2 ^ 40).flatMap (leBytes 8)),
      (hdr.plus 4, [1 - cur + 0x80]), (hdr.plus 8, leBytes 8 step ++ leBytes 4 r.2 ++ leBytes 4 0xFFFFFFFF)]

/-- Step 4 for every tensor with records since its last resolution; one that a poisoned sector stopped counts as resolved
(log entry 123). -/
def State.resolveAll (s : State) (step : Nat) : State :=
  let s := s.sc.touched.foldl (fun s t => s.resolve step t.1 t.2.1) s
  { s with sc := { s.sc with touched := [] } }

/-- The CRC-32 of each die's stage image, 0 for a die without one (R175). -/
def State.stageCrcs (s : State) : List Nat :=
  (List.range 16).map fun d =>
    match s.tiles.find? fun p => tileDie p.1 = d && p.2.duty = 2 && p.2.staged.isSome with
    | none => 0
    | some p => ((p.2.staged.bind fun c => mapGet? s.configs c).map (·.crc)).getD 0

/-- Step 5's condition outside replay: the flip is pending and every die has its stage image. -/
def State.wantsFlip (s : State) : Bool := s.flipPending && s.allStaged

/-- Step 5: ACTIVE_GEN takes generation `gen` on every policy tile. -/
def State.policyFlip (s : State) (step gen : Nat) : State :=
  let s := { s with tiles := mapVals (fun _ (t : Tile) =>
    if t.duty = 2 then { t.flip gen with cfg := if t.staged.isSome then t.staged else t.cfg } else t) s.tiles }
  let s := (s.wr Reg.POLICY_CTRL.ACTIVE_GEN gen).wr Reg.POLICY_FLIP_STEP.STEP step
  s.note Ev.POLICY_FLIP 2 hostIsland none [(8, step), (1, gen)]

/-! ## The register (R176) -/

/-- A write of POLICY_CTRL: FLIP_PENDING follows from PENDING_GEN. -/
def opPendingGenWrite (w : Wr) (s : State) : State := s.writeAt Reg.POLICY_CTRL.PENDING_GEN.off w

def execPolicyRecordScore (die tile : Nat) (flips : List SlotFlip) (errs : List MemErr) (s : State) : Out :=
  .next (opPolicyRecordScore die tile flips errs s)
def execShadowEntryDone (t k : Nat) (errs : List MemErr) (s : State) : Out := .next (opShadowEntryDone t k errs s)
def execPendingGenWrite (w : Wr) (s : State) : Out := .next (opPendingGenWrite w s)

end Sys2Proof.Machine
end

