-- ==== Sys2Proof/Machine/Loads.lean ====
section
/-! DEFINITION. Configuration loads: TILE_CONFIG, LOAD_POLICY and the completion of a tile's load (R59 to R61, R166, R206). -/

namespace Sys2Proof.Machine

/-- The class Q event of an image that fails its duty's checks, with its subsystem. -/
def imageEvent (duty : Nat) : Nat × Nat :=
  if duty = 1 then (Ev.TENSOR_IMAGE, 0) else if duty = 4 then (Ev.PATTERN_IMAGE, 4) else if duty = 2 then (Ev.SCORE_IMAGE, 2)
  else (Ev.SCORE_IMAGE, 3)

/-- A failed image: the group's tiles return to IDLE and the op fails. -/
def State.imageFail (s : State) (k : OpKey) (duty : Nat) (tiles : List Nat) : State :=
  let src := s.tileIsland (nth tiles 0 0)
  let s := tiles.foldl (fun s t => s.modTile t Tile.release) s
  s.opFault k (imageEvent duty).1 (imageEvent duty).2 src []

/-- The image kept, and its load started on every tile of the group. -/
def State.beginLoad (s : State) (k : OpKey) (img : Image) (duty : Nat) (tiles : List Nat) (f : Tile → Tile) : State :=
  let c := s.nextCfg
  let s := { s with configs := mapSet s.configs c img, nextCfg := c + 1 }
  let s := tiles.foldl (fun s t => s.modTile t fun x => { f x with loading := some (c, duty, k) }) s
  s.modOp k fun o => { o with work := .load tiles }

/-- TILE_CONFIG: the image is checked, the duty set and the load started (R59, R60). -/
def opTileConfig (k : OpKey) (img : Image) (errs : List MemErr) (s : State) : State :=
  match s.opIs k Cls.SYNC 1 .running with
  | none => s
  | some o =>
    if o.work != .none then s
    else
      let duty := o.num 1
      let tiles := o.tiles
      let start := fun (s : State) => s.beginLoad k img duty tiles fun x => { x with duty := duty }
      if duty = 0 then start s
      else
        s.accessing k errs [⟨false, o.locOf 2, 1⟩] fun s =>
          if !s.imageOk duty img tiles.length tiles then s.imageFail k duty tiles else start s

/-- LOAD_POLICY: FULL as a configuration of duty 2, STAGE on tiles already in duty 2 (R59, R166). -/
def opLoadPolicy (k : OpKey) (img : Image) (errs : List MemErr) (s : State) : State :=
  match s.opIs k Cls.SYNC 2 .running with
  | none => s
  | some o =>
    let tiles := o.tiles
    if o.work != .none then s
    else
      s.accessing k errs [⟨false, o.locOf 1, 1⟩] fun s =>
        if img.kind = 0 then
          if !s.policyOk img tiles.length then s.imageFail k 2 tiles
          else s.beginLoad k img 2 tiles fun x => { x with st := .config, ctx := k.ctx, duty := 2 }
        else
          match tiles.find? fun t => (s.tile t).duty != 2 || (s.tile t).cfg.isNone with
          | some t =>
            /- a tile that the op found IDLE is left as it was -/
            let s := tiles.foldl (fun s t => s.modTile t fun x =>
              if x.cfg.isNone then { x with st := .idle, ctx := 0, running := none } else x) s
            s.wrongDuty k t
          | none =>
            let free := fun (s : State) => tiles.foldl (fun s t => s.modTile t fun x => { x with st := .ready, running := none }) s
            let src := s.tileIsland (nth tiles 0 0)
            if img.gen = s.rd Reg.POLICY_CTRL.ACTIVE_GEN then (free s).opFault k Ev.STAGE_GEN 2 src []
            else if !s.policyOk img tiles.length then (free s).opFault k Ev.SCORE_IMAGE 2 src []
            else
              let dies := (tiles.map tileDie).eraseDups
              let active := s.rd Reg.POLICY_CTRL.ACTIVE_GEN
              let s := { s with tiles := mapVals (fun t x =>
                if dies.contains (tileDie t) && x.duty = 2 && x.cfg.isSome then x.unstage active else x) s.tiles }
              s.beginLoad k img 2 tiles fun x => { x with st := .busy }

/-- An on-deck op judged under the duty that a load has set (R61). -/
def State.judgeDeck (s : State) (t : Nat) : State :=
  match (s.tile t).deck with
  | none => s
  | some k2 =>
    match s.op? k2 with
    | none => s
    | some o2 =>
      if (s.tile t).admits k2.ctx o2 then s
      else (s.modTile t fun x => { x with deck := none }).wrongDuty k2 t

/-- The load of one tile of an op is over; after the last one the op is whole. -/
def State.loadDone (s : State) (k : OpKey) (t : Nat) (img : Option Image) : State :=
  match s.op? k with
  | none => s
  | some o =>
    match o.work with
    | .load left =>
      let left := left.filter (· != t)
      if !left.isEmpty then s.modOp k fun o => { o with work := .load left }
      else
        let s := match img with
          | some i => if o.code = 2 && i.kind = 0 then
              (s.wr Reg.POLICY_CTRL.ACTIVE_GEN i.gen).wr Reg.POLICY_CTRL.PENDING_GEN i.gen else s
          | none => s
        s.executed k
    | _ => s

/-- A tile finishes its load: self-test, contents, state, and the judgement of its on-deck op (R61, R166, R206). -/
def opImageLoadDone (t : Nat) (pass : Bool) (errs : List SlotErr) (s : State) : State :=
  let x := s.tile t
  match x.loading with
  | none => s
  | some (c, duty, k) =>
    let img := mapGet? s.configs c
    let stage := match img, s.op? k with
      | some i, some o => o.code = 2 && i.kind = 1
      | _, _ => false
    let pos := match s.op? k with
      | some o => (findPos (fun (u : Nat) => decide (u = t)) o.tiles).getD 0
      | none => 0
    if s.stopped || s.heldTile t then s
    else if duty = 0 then
      ((s.modTile t fun y => { y.release with deck := y.deck }).judgeDeck t).loadDone k t none
    else
      match img with
      | none => s
      | some i =>
        if stage then
          let s := s.putEntries t (fun _ => i.gen) errs (i.seg pos).entries
          if (s.tile t).loading.isNone then s
          else
            let s := s.modTile t fun y => { (match i.score with
              | some p => y.stage i c pos p
              | none => y) with loading := none }
            s.loadDone k t img
        else if !pass then
          let src := s.tileIsland t
          let s := (s.recordFail 1 Ev.TMA_SELFTEST (s.physical t) 0).modTile t Tile.release
          s.opFault k Ev.TMA_SELFTEST (dutySubsys duty) src [(4, t)]
        else
          let s := (s.modTile t fun y => y.load i c pos duty).putEntries t (fun e => if duty = 2 then i.gen else e.gen) errs
            (i.seg pos).entries
          if (s.tile t).loading.isNone then s
          else
            let s := s.modTile t fun y => { y with loading := none, running := none, st := .ready }
            (s.judgeDeck t).loadDone k t img

def execTileConfig (k : OpKey) (img : Image) (errs : List MemErr) (s : State) : Out := .next (opTileConfig k img errs s)
def execLoadPolicy (k : OpKey) (img : Image) (errs : List MemErr) (s : State) : Out := .next (opLoadPolicy k img errs s)
def execImageLoadDone (t : Nat) (pass : Bool) (errs : List SlotErr) (s : State) : Out := .next (opImageLoadDone t pass errs s)

end Sys2Proof.Machine
end

