-- ==== Sys2Proof/Machine/Streams.lean ====
section
/-! DEFINITION. The stream engine: MOVE and its transfers, curation, relay chains, semaphores and huddles (R334 to R364). -/

namespace Sys2Proof.Machine

/-! ## Transfers (R337, R343) -/

/-- A range cut into transfers of at most 4,096 bytes that cross no 4 KiB boundary at either end, in ascending order. -/
def cutXfers (src dst : Loc) (chunk : Nat) : Nat → Nat → Nat → List Xfer
  | 0, _, _ => []
  | fuel + 1, off, left =>
    if left = 0 then []
    else
      let a := src.plus off
      let b := dst.plus off
      let n := min left (min (4096 - a.addr % 4096) (4096 - b.addr % 4096))
      ⟨a, b, n, chunk⟩ :: cutXfers src dst chunk fuel (off + n) (left - n)

/-- The transfers of a COPY, chunk by chunk under a role. -/
def Op.xfers (o : Op) : List Xfer :=
  let src := o.locOf 1
  let dst := o.locOf 2
  let bytes := o.num 3
  let role := o.num 5
  if role = 0 then cutXfers src dst 0 (bytes + 1) 0 bytes
  else
    let c := o.num 4
    (List.range (bytes / c)).flatMap fun k =>
      let lin := c * k
      let place := c * (k % o.num 7)
      if role = 1 then cutXfers (src.plus lin) (dst.plus place) k (c + 1) 0 c
      else cutXfers (src.plus place) (dst.plus lin) k (c + 1) 0 c

def Op.chunks (o : Op) : Nat := if o.num 5 = 0 then 1 else o.num 3 / o.num 4

/-! ## Semaphores (R344 to R346) -/

def State.pair? (s : State) (c q p : Nat) : Option Pair := s.se.pairs.find? fun x => x.ctx = c && x.seq = q && x.pair = p
def State.modPair (s : State) (c q p : Nat) (f : Pair → Pair) : State :=
  { s with se := { s.se with pairs := s.se.pairs.map fun x => if x.ctx = c && x.seq = q && x.pair = p then f x else x } }

/-- Semaphore 0 is FULL, 1 is EMPTY. -/
def Pair.val (p : Pair) (sem : Nat) : Nat := if sem = 0 then p.full else p.empty
def Pair.put (p : Pair) (sem v : Nat) : Pair := if sem = 0 then { p with full := v } else { p with empty := v }

/-- The takers of a pair with one more, after those that began earlier, and among those of one cycle by ascending OP_ID (R345). -/
def Pair.join (p : Pair) (w : Waiter) : Pair :=
  let first := fun (v : Waiter) => decide (v.since < w.since) || decide (v.key.id ≤ w.key.id)
  { p with waiters := p.waiters.takeWhile first ++ [w] ++ p.waiters.dropWhile first }

/-- An op begins to wait for a count of its pair; a count that is not there is counted. -/
def State.beginWait (s : State) (k : OpKey) (pair sem n : Nat) : State :=
  match s.pair? k.ctx k.seq pair with
  | none => s
  | some p =>
    let free := decide (n ≤ p.val sem) && !p.waiters.any fun w => w.sem = sem
    let s := if free then s else s.inc Reg.SE_COUNT1.SEM_WAITED 1
    s.modPair k.ctx k.seq pair fun p => p.join ⟨k, sem, n, s.now⟩

/-- An addition to a semaphore: none where it would pass DEPTH, and the op has failed. -/
def State.semAdd (s : State) (k : OpKey) (pair sem n : Nat) : State × Bool :=
  match s.pair? k.ctx k.seq pair with
  | none => (s, true)
  | some p =>
    if p.depth < p.val sem + n then
      (s.opFault k Ev.SEM_OVERFLOW 8 (s.streamIsland k (some pair)) [(8, k.seq), (2, k.id), (2, pair), (1, sem)], false)
    else (s.modPair k.ctx k.seq pair fun p => p.put sem (p.val sem + n), true)

/-- SEM_SIGNAL adds COUNT and completes. -/
def opSemSignal (k : OpKey) (s : State) : State :=
  match s.opIs k Cls.STREAM 2 .running with
  | none => s
  | some o =>
    let r := s.semAdd k (o.num 0) (o.num 2) (o.num 3)
    if r.2 then r.1.completeOp k else r.1

/-- SEM_WAIT begins to wait. -/
def opSemWait (k : OpKey) (s : State) : State :=
  match s.opIs k Cls.STREAM 3 .running with
  | none => s
  | some o =>
    if o.work != .none then s
    else (s.modOp k fun o => { o with work := .sem s.now }).beginWait k (o.num 0) (o.num 2) (o.num 3)

/-- The first taker in wait order is served its whole count. -/
def opSemaphoreTake (c q pair sem : Nat) (s : State) : State :=
  match s.pair? c q pair with
  | none => s
  | some p =>
    match p.waiters.find? fun w => w.sem = sem with
    | none => s
    | some w =>
      if s.stopped || p.val sem < w.count then s
      else
        let s := s.modPair c q pair fun p => { p.put sem (p.val sem - w.count) with waiters := p.waiters.erase w }
        match s.op? w.key with
        | none => s
        | some o =>
          match o.work with
          | .move m => s.modOp w.key fun o => { o with work := .move { m with taken := m.taken + 1 } }
          | _ => s.completeOp w.key

/-! ## MOVE in COPY mode (R338, R341 to R343) -/

/-- The semaphore that a MOVE takes from; EMPTY for a producer, FULL for a consumer. -/
def Op.takesSem (o : Op) : Nat := if o.num 5 = 1 then 1 else 0

def opMoveCopy (k : OpKey) (s : State) : State :=
  match s.opIs k Cls.STREAM 0 .running with
  | none => s
  | some o =>
    if o.work != .none || o.num 0 != 0 then s
    else
      let role := o.num 5
      let xs := o.xfers
      if xs.isEmpty then s.executed k
      else
        let w : MoveWork := ⟨xs, [], 0, if role = 0 then 1 else 0, o.chunks⟩
        let s := s.modOp k fun o => { o with work := .move w }
        if role = 0 then s else s.beginWait k (o.num 6) o.takesSem 1

def State.moveWork (s : State) (k : OpKey) : Option (Op × MoveWork) :=
  match s.opIs k Cls.STREAM 0 .running with
  | some o => match o.work with
    | .move w => some (o, w)
    | _ => none
  | none => none

/-- A stack that stops answering while the module runs: its failure is recorded and the whistle sounds (R274). -/
def State.stackFail (s : State) (st : Nat) : State :=
  (s.recordFail 3 Ev.STACK_FAIL st 0).faultD Ev.STACK_FAIL 6 (stackIsland st) none [(1, st), (1, 0xFF)]

/-- Descriptors in the next burst of a stream with `out` transfers outstanding (R338). -/
def State.burstSize (s : State) (c out : Nat) : Nat := min 16 ((s.ctx c).outstanding - out)

/-- Transfers numbered from `n` on as they are issued. -/
def numbered (n : Nat) (xs : List Xfer) : List (Nat × Xfer) := (List.range xs.length).zipWith (fun i x => (n + i, x)) xs

/-- The fetch of an op goes on: staged with FENCE 0, or with every predecessor completed (R321, R339). -/
def State.fetching (s : State) (k : OpKey) : Option (Op × Flow) :=
  match s.op? k, s.buf? k.ctx k.seq with
  | some o, some b =>
    if (o.st = .staged || o.st = .running) && (!o.fence || b.predsDone o) then some (o, o.fetch) else none
  | _, _ => none

/-- A burst of a fetch: each transfer is judged where it reads. -/
def State.fetchBurst (s : State) (k : OpKey) (errs : List MemErr) (stack : Option Nat) : State :=
  match s.fetching k with
  | none => s
  | some (_, w) =>
    let burst := w.todo.take (s.burstSize k.ctx w.out.length)
    if burst.isEmpty then s
    else
      match stack with
      | some st => if s.stackList.contains st then s.stackFail st else s
      | none =>
        s.accessing k errs (burst.map fun x => ⟨false, x.src, x.len⟩) fun s =>
          let w := ⟨w.todo.drop burst.length, w.out ++ numbered w.next burst, w.next + burst.length⟩
          (s.modOp k fun o => { o with fetch := w }).inc Reg.SE_COUNT0.BURSTS 1

/-- A burst of transfers is issued; each is judged where it reads and writes. -/
def opBurstIssue (k : OpKey) (errs : List MemErr) (stack : Option Nat) (s : State) : State :=
  match s.moveWork k with
  | none => s.fetchBurst k errs stack
  | some (o, w) =>
    let burst := (w.todo.takeWhile fun x => decide (x.chunk < w.taken)).take (s.burstSize k.ctx w.out.length)
    if burst.isEmpty then s
    else
      match stack with
      | some st => if s.stackList.contains st then s.stackFail st else s
      | none =>
        s.accessing k errs (burst.flatMap fun x => [⟨false, x.src, x.len⟩, ⟨true, x.dst, x.len⟩]) fun s =>
          let todo := w.todo.drop burst.length
          let out := w.out ++ numbered w.nextIdx burst
          let w' := { w with todo := todo, out := out, nextIdx := w.nextIdx + burst.length }
          let s := (s.modOp k fun o => { o with work := .move w' }).inc Reg.SE_COUNT0.BURSTS 1
          /- every transfer of the chunks taken has been issued: wait for the next place -/
          let next := o.num 5 != 0 && decide (w.taken < w.chunks) && !todo.any fun x => decide (x.chunk < w.taken)
          if next then s.beginWait k (o.num 6) o.takesSem 1 else s

/-- Where the source and the destination of a MOVE overlap: an address of the destination's space within both. -/
def Op.overlap (o : Op) (l : Loc) : Bool :=
  let src := o.locOf 1
  let dst := o.locOf 2
  let within := fun (p : Loc) => decide (p.addr ≤ l.addr) && decide (l.addr < p.addr + o.num 3)
  src.host = dst.host && l.host = src.host && within src && within dst

/-- The bytes that a transfer brings; overlapping bytes are free values (R342). -/
def State.xferBytes (s : State) (o : Op) (x : Xfer) : List Nat :=
  (List.range x.len).zipWith (fun i b =>
    if o.num 5 = 0 && (o.overlap (x.src.plus i) || o.overlap (x.dst.plus i)) then (Config.freeWord (s.free + i)).toNat % 256 else b)
    (s.read x.src x.len)

/-- Two transfers write to one 256-byte line of device memory. -/
def Xfer.sharesLine (x y : Xfer) : Bool :=
  !x.dst.host && !y.dst.host && decide (x.dst.addr / 256 ≤ (y.dst.addr + y.len - 1) / 256) &&
    decide (y.dst.addr / 256 ≤ (x.dst.addr + x.len - 1) / 256)

/-- An earlier transfer of the op that writes to a line which this one writes to is still outstanding (R278). -/
def behindLine (out : List (Nat × Xfer)) (idx : Nat) (x : Xfer) : Bool :=
  out.any fun e => decide (e.1 < idx) && e.2.sharesLine x

def landed (out : List (Nat × Xfer)) (idx : Nat) : List (Nat × Xfer) := out.filter fun e => e.1 != idx

/-- An op without one of its outstanding transfers. -/
def Op.lands (o : Op) (idx : Nat) : Op :=
  { o with fetch := { o.fetch with out := landed o.fetch.out idx }
           work := match o.work with
             | .move w => .move { w with out := landed w.out idx }
             | w => w }

/-- A transfer of an op comes back as a NACK: it is no longer outstanding, and the op fails (R340). -/
def State.xferNack (s : State) (k : OpKey) (idx code addr : Nat) : State := (s.modOp k fun o => o.lands idx).streamNack k code addr

/-- A transfer of a MOVE lands; the last one of a chunk adds to the other semaphore, the last one of all makes the MOVE whole. -/
def State.moveLanded (s : State) (k : OpKey) (o : Op) (w : MoveWork) (idx : Nat) (x : Xfer) (hostErr : Bool)
    (errs : List MemErr) : State :=
  if hostErr && x.src.host then s.xferNack k idx Nack.HOST_ERROR x.src.addr
  else if behindLine w.out idx x then s
  else
    s.accessing k errs [⟨false, x.src, x.len⟩, ⟨true, x.dst, x.len⟩] fun s =>
      let s := s.write x.dst (s.xferBytes o x)
      let s := { s with free := s.free + x.len }
      let w := { w with out := landed w.out idx }
      let s := (s.modOp k fun o => { o with work := .move w }).inc Reg.SE_COUNT0.TRANSFERS 1
      let chunkLeft := w.out.any (fun e => e.2.chunk = x.chunk) || w.todo.any fun y => y.chunk = x.chunk
      let r := if o.num 5 = 0 || chunkLeft then (s, true) else s.semAdd k (o.num 6) (1 - o.takesSem) 1
      if r.2 && w.todo.isEmpty && w.out.isEmpty then r.1.executed k else r.1

/-- A transfer of a fetch lands. What it brings before every predecessor has completed stands as it is now (R339). -/
def State.fetchLanded (s : State) (k : OpKey) (o : Op) (idx : Nat) (x : Xfer) (hostErr : Bool) (errs : List MemErr) : State :=
  if hostErr && x.src.host then s.xferNack k idx Nack.HOST_ERROR x.src.addr
  else
    s.accessing k errs [⟨false, x.src, x.len⟩] fun s =>
      let ready := match s.buf? k.ctx k.seq with
        | some b => b.predsDone o
        | none => true
      let bytes := s.read x.src x.len
      (s.modOp k fun o => { o.lands idx with early := if ready then o.early else o.early ++ [(x.src, bytes)] }).inc
        Reg.SE_COUNT0.TRANSFERS 1

/-- A discarded op without one of its outstanding transfers. -/
def State.dropLanded (s : State) (k : OpKey) (idx : Nat) : State :=
  { s with se := { s.se with dropped := s.se.dropped.map fun p => if p.1 = k then (k, p.2.lands idx) else p } }

/-- A transfer of a discarded op lands where it can, and is outstanding no longer (R329, R340, R363). -/
def State.droppedLanded (s : State) (k : OpKey) (o : Op) (idx : Nat) (hostErr : Bool)
    (errs : List MemErr) : State :=
  let gone := fun (s : State) => s.dropLanded k idx
  match o.work, o.fetch.out.find? fun e => e.1 = idx with
  | .move w, _ =>
    match w.out.find? fun e => e.1 = idx with
    | none => s
    | some (_, x) =>
      if hostErr && x.src.host then (gone s).streamNack k Nack.HOST_ERROR x.src.addr
      else if behindLine w.out idx x then s
      else
        let accs : List Acc := [⟨false, x.src, x.len⟩, ⟨true, x.dst, x.len⟩]
        let s := s.memErrs (errsIn accs errs)
        match s.refused k accs with
        | some t => gone t
        | none => (gone { s.write x.dst (s.xferBytes o x) with free := s.free + x.len }).inc Reg.SE_COUNT0.TRANSFERS 1
  | _, some (_, x) =>
    if hostErr && x.src.host then (gone s).streamNack k Nack.HOST_ERROR x.src.addr
    else (gone (s.memErrs (errsIn [⟨false, x.src, x.len⟩] errs))).inc Reg.SE_COUNT0.TRANSFERS 1
  | _, none => s

def State.droppedOp (s : State) (k : OpKey) : Option Op := if s.stopped then none else (s.se.dropped.find? fun p => p.1 = k).map (·.2)

/-- A place lies partly in a stack that is too hot to be accessed (R536). -/
def State.tooHot (s : State) (l : Loc) (n : Nat) : Bool :=
  !l.host && (List.range (ceilDiv (l.addr % 256 + n) 256)).any fun j => s.on (Reg.MEM_HBM_TEMP.HOT (s.stackOf (l.addr + 256 * j)))

/-- A transfer lands: of a MOVE, of the fetch of an op, or of a discarded op. It waits while a stack that it meets is too hot
(R536, log entry 130). -/
def opTransferLanded (k : OpKey) (idx : Nat) (hostErr : Bool) (errs : List MemErr) (s : State) : State :=
  match s.moveWork k with
  | some (o, w) =>
    match w.out.find? fun e => e.1 = idx with
    | some (_, x) => if s.tooHot x.src x.len || s.tooHot x.dst x.len then s else s.moveLanded k o w idx x hostErr errs
    | none => s
  | none =>
    match s.op? k, s.droppedOp k with
    | some o, _ =>
      match o.fetch.out.find? fun e => e.1 = idx with
      | some (_, x) => if s.tooHot x.src x.len then s else s.fetchLanded k o idx x hostErr errs
      | none => s
    | none, some o => s.droppedLanded k o idx hostErr errs
    | none, none => s

/-! ## Curation (R348, R349) -/

/-- A MOVE in a curation mode reads where its flag ring stands. -/
def opCurate (mode : Nat) (k : OpKey) (errs : List MemErr) (s : State) : State :=
  match s.opIs k Cls.STREAM 0 .running with
  | none => s
  | some o =>
    if o.work != .none || o.num 0 != mode then s
    else
      s.accessing k errs [⟨false, o.locOf 8, 64⟩] fun s =>
        let j := s.readNat ((o.locOf 8).plus 8) 8
        s.modOp k fun o => { o with work := .curate ⟨j, 0, 0, 0, none, 0, false⟩ }

def opCurateScore (k : OpKey) (errs : List MemErr) (s : State) : State := opCurate 1 k errs s
def opCuratePattern (k : OpKey) (errs : List MemErr) (s : State) : State := opCurate 2 k errs s

/-- The header of WEIGHTS, then TAIL of FLAGS, and under MODE 2 of SRC. The first SEQ of an op that consumes nothing is a
free value (log entry 78). -/
def State.curateEnd (s : State) (k : OpKey) (errs : List MemErr) (o : Op) (w : CurWork) : State :=
  let wt := o.locOf 9
  let first := w.first.getD (Config.freeWord s.free).toNat
  let tail := leBytes 8 (w.j0 + w.i)
  let header := leBytes 4 w.n ++ List.replicate 4 0 ++ leBytes 8 w.off ++ leBytes 8 first ++ List.replicate 40 0
  let ws := [(wt, header), ((o.locOf 8).plus 8, tail)] ++
    (if o.num 0 = 2 then [((o.locOf 1).plus 8, tail)] else [])
  s.accessing k errs (writeAccsOf ws) fun s =>
    let s := ws.foldl (fun s w => s.write w.1 w.2) s
    State.executed { s with free := s.free + 1 } k
where
  writeAccsOf (ws : List (Loc × List Nat)) : List Acc := ws.map fun w => ⟨true, w.1, w.2.length⟩

/-- The next flag entry is consumed: a kept record is packed with its weight; one that does not fit ends the op. -/
def opCurateEntry (k : OpKey) (errs : List MemErr) (s : State) : State :=
  match s.opIs k Cls.STREAM 0 .running with
  | none => s
  | some o =>
    match o.work with
    | .curate w =>
      let flags := o.locOf 8
      let mode := o.num 0
      let j := w.j0 + w.i
      let loc := flags.plus (64 + 8 * (j % o.num 13))
      s.accessing k errs [⟨false, flags, 64⟩, ⟨false, loc, 8⟩] fun s =>
        if s.readNat flags 8 ≤ j then s
        else
          let f := s.readNat loc 8
          let keep := if mode = 1 then bitOf f 16 else bitOf f 0
          let seq := bitsOf f 32 32
          let step := fun (s : State) (w : CurWork) =>
            let w := { w with i := w.i + 1, first := some (w.first.getD seq), lastSeq := seq }
            if w.i = o.num 12 then s.curateEnd k errs o w else s.modOp k fun o => { o with work := .curate w }
          if !keep then step s w
          else
            let stride := 64 * (o.num 10 + 1)
            let rec_ := (o.locOf 1).plus (64 + stride * (seq % o.num 11))
            s.accessing k errs [⟨false, rec_, 8⟩] fun s =>
              let len := if mode = 1 then stride else ceilDiv (8 + s.readNat rec_ 4) 64 * 64
              if o.num 3 < w.off + len then s.curateEnd k errs o w
              else
                let dst := (o.locOf 2).plus w.off
                let wt := (o.locOf 9).plus (64 + 2 * w.n)
                s.accessing k errs [⟨false, rec_, len⟩, ⟨true, dst, len⟩, ⟨true, wt, 2⟩] fun s =>
                  let s := (s.streamed [⟨false, rec_, len⟩]).write dst (s.read rec_ len)
                  let s := s.write wt (leBytes 2 (if mode = 1 then f % 2 ^ 16 else 0x3F80))
                  step s { w with off := w.off + len, n := w.n + 1 }
    | _ => s

/-! ## RELAY (R350, R351) -/

/-- SRC is read once and written into the SRAM of every tile of the chain at DST_OFF. -/
def opRelay (k : OpKey) (errs : List MemErr) (s : State) : State :=
  match s.opIs k Cls.STREAM 1 .running with
  | none => s
  | some o =>
    s.accessing k errs [⟨false, o.locOf 1, o.num 2⟩] fun s =>
      let bytes := (s.fetched o).read (o.locOf 1) (o.num 2)
      let s := o.tiles.foldl (fun s t => s.putSram t (o.num 3) bytes) s
      s.executed k

/-! ## Huddles (R352 to R358) -/

/-- The op arrives at its barrier on every tile of its group. -/
def opHuddle (k : OpKey) (s : State) : State :=
  match s.opIs k Cls.SYNC 4 .running with
  | none => s
  | some _ => s.modOp k fun o => { o with work := .pending 1 }

/-- The schedule check of one participant, and the mark from which the next huddle of its group counts (R358). -/
def State.huddleTime (s : State) (k : OpKey) (o : Op) (held mhz : Nat) : State :=
  let mine := fun (m : HuddleMark) => m.ctx = k.ctx && m.seq = k.seq && m.group = o.num 0
  let since := match s.se.marks.find? mine with
    | some m => m.released
    | none => s.now
  let elapsed := s.now - since
  let bound := o.num 3
  let s := { s with se := { s.se with marks := s.se.marks.filter (fun m => !mine m) ++ [⟨k.ctx, k.seq, o.num 0, s.now, 0⟩] } }
  if bound = 0 || elapsed ≤ bound then s
  else
    let sat := fun v => min v 0xFFFFFFFF
    let s := (s.inc Reg.SE_COUNT1.OVERRUNS 1).wr Reg.SE_OVERRUN_LAST.EXCESS_NS (sat (elapsed - bound))
    (s.wr Reg.SE_OVERRUN_LAST.CTX k.ctx).note Ev.SCHEDULE_OVERRUN 8 (s.tileIsland (nth o.tiles 0 0)) (some k.ctx)
      [(2, k.ctx), (2, k.id), (4, sat elapsed), (4, bound), (4, sat held), (2, mhz)]

/-- Every participant has arrived: the huddle releases and they complete together. `held` is the time in thermal hold and
`mhz` the lowest island clock seen. -/
def opHuddleRelease (k : OpKey) (held mhz : Nat) (s : State) : State :=
  match s.opIs k Cls.SYNC 4 .running, s.buf? k.ctx k.seq with
  | some o, some b =>
    let all := b.huddle o
    if all.any (fun p => p.st != .running || p.work != .pending 1) || all.any (fun p => p.tiles.any s.heldTile) then s
    else
      let s := all.foldl (fun s p => s.huddleTime { k with id := p.id } p held mhz) s
      all.foldl (fun s p => s.completeOp { k with id := p.id }) s
  | _, _ => s

def execSemSignal (k : OpKey) (s : State) : Out := .next (opSemSignal k s)
def execSemWait (k : OpKey) (s : State) : Out := .next (opSemWait k s)
def execSemaphoreTake (c q pair sem : Nat) (s : State) : Out := .next (opSemaphoreTake c q pair sem s)
def execMoveCopy (k : OpKey) (s : State) : Out := .next (opMoveCopy k s)
def execBurstIssue (k : OpKey) (errs : List MemErr) (stack : Option Nat) (s : State) : Out := .next (opBurstIssue k errs stack s)
def execTransferLanded (k : OpKey) (idx : Nat) (hostErr : Bool) (errs : List MemErr) (s : State) : Out :=
  .next (opTransferLanded k idx hostErr errs s)
def execCurateScore (k : OpKey) (errs : List MemErr) (s : State) : Out := .next (opCurateScore k errs s)
def execCuratePattern (k : OpKey) (errs : List MemErr) (s : State) : Out := .next (opCuratePattern k errs s)
def execCurateEntry (k : OpKey) (errs : List MemErr) (s : State) : Out := .next (opCurateEntry k errs s)
def execRelay (k : OpKey) (errs : List MemErr) (s : State) : Out := .next (opRelay k errs s)
def execHuddle (k : OpKey) (s : State) : Out := .next (opHuddle k s)
def execHuddleRelease (k : OpKey) (held mhz : Nat) (s : State) : Out := .next (opHuddleRelease k held mhz s)

end Sys2Proof.Machine
end

