-- ==== Sys2Proof/Machine/StepControl.lean ====
section
/-! DEFINITION. The step controller: the vote and its decision, the commit sequence, resolves, the step journal, replay,
snapshots, and the writes of step state (R365 to R400, R417 to R419). -/

namespace Sys2Proof.Machine

/-! ## The journal (R395, R396) -/

/-- TYPE of a journal entry. -/
def J.COMMIT := 1
def J.ABORT := 2
def J.RESOLVED_COMMIT := 3
def J.RESOLVED_ABORT := 4
def J.POLICY_FLIP := 5
def J.RUN := 6
def J.DET := 7
def J.SNAPSHOT := 8

def State.setSc (s : State) (f : StepState → StepState) : State := { s with sc := f s.sc }

/-- An entry queued for JOURNAL_WRITE. -/
def State.journal (s : State) (e : JEntry) : State := s.setSc fun c => { c with jpend := c.jpend ++ [e] }

/-- The flags of an entry made at a boundary (log entry 81). -/
def State.stepFlags (s : State) (skip : Bool) : Nat :=
  b2n s.sc.detAll + 2 * b2n s.sc.detAny + 4 * b2n skip + 8 * b2n s.sc.straggled

/-- The payload of the entries of TYPE 1 to 4. -/
def State.outcomePayload (s : State) : List Nat :=
  [s.rd Reg.SC_STATUS.COMMIT_SLOT, s.sc.scope, 0, 0] ++ leBytes 4 s.sc.deadline ++ leBytes 2 (s.rd Reg.SC_LAST.READY) ++
  leBytes 2 (s.rd Reg.SC_LAST.MISSING) ++ leBytes 4 s.sc.dropped ++ leBytes 4 s.sc.lateAdded

/-- The payload of a RUN entry. -/
def State.runPayload (s : State) : List Nat :=
  leBytes 8 (s.rd Reg.SC_SEED_LO.SEED) ++ leBytes 8 (s.rd Reg.SC_SEED_HI.SEED) ++ leBytes 8 (s.rd Reg.SC_STEP.COUNT) ++
  leBytes 2 (s.rd Reg.SC_CTRL.TRAIN_CTX) ++ [s.rd Reg.SC_CTRL.REPLAY]

/-- The 128 bytes of an entry as it is written. -/
def JEntry.bytes (e : JEntry) (jseq now : Nat) : List Nat :=
  let body := [e.typ, e.flags, 0, 0, 0, 0, 0, 0] ++ leBytes 8 jseq ++ leBytes 8 e.step ++ leBytes 8 now ++
    (e.payload ++ List.replicate 92 0).take 92
  body ++ leBytes 4 (crc32 body)

/-! ## Replay (R397) -/

/-- The published entries of the replay ring that have not been consumed; an entry that lies in a poisoned sector is left
out. -/
def State.rplEntries (s : State) : List (List Nat) :=
  let cons := s.rd Reg.SC_RPL_PROD.CONS
  let size := 2 ^ s.rd Reg.SC_JNL_CTRL.SIZE_LOG2
  let n := min ((s.rd Reg.SC_RPL_PROD.PROD + 2 ^ 32 - cons) % 2 ^ 32) size
  (List.range n).filterMap fun i =>
    let a := s.rd Reg.SC_RPL_BASE.ADDR + 128 * ((cons + i) % size)
    if (s.poisonIn a 128).isSome then none else some (s.hbm.rdBytes a 128)

def entryIs (typ step : Nat) (bs : List Nat) : Bool := leAt bs 0 1 = typ && leAt bs 0x10 8 = step

/-- The CRCs of a POLICY_FLIP entry are those of the staged images. -/
def State.crcsMatch (s : State) (bs : List Nat) : Bool := (List.range 16).map (fun d => leAt bs (0x24 + 4 * d) 4) = s.stageCrcs

/-- Step N's replay allows a READY vote (log entry 82). -/
def State.replayReady (s : State) (step : Nat) : Bool :=
  let es := s.rplEntries
  es.any (fun e => entryIs J.COMMIT step e || entryIs J.RESOLVED_COMMIT step e || entryIs J.POLICY_FLIP step e) &&
  es.all fun e => !entryIs J.POLICY_FLIP step e || s.crcsMatch e

/-- The generation that step 5 of R163 flips to, if it flips: under REPLAY that of the published entry of the step, whose CRCs
must be those of the staged images (R175, R397). -/
def State.flipGen (s : State) (step : Nat) : Option Nat :=
  if s.on Reg.SC_CTRL.REPLAY then
    (s.rplEntries.find? fun e => entryIs J.POLICY_FLIP step e && s.crcsMatch e).map fun e => leAt e 0x20 1 % 4
  else if s.wantsFlip then some (s.rd Reg.POLICY_CTRL.PENDING_GEN) else none

/-- The entries of steps up to N are consumed. -/
def State.rplConsume (s : State) (step : Nat) : State :=
  if s.on Reg.SC_CTRL.REPLAY then
    s.wr Reg.SC_RPL_PROD.CONS (s.rd Reg.SC_RPL_PROD.CONS + (s.rplEntries.takeWhile fun e => decide (leAt e 0x10 8 ≤ step)).length)
  else s

/-! ## Outcomes (R380, R381, R383) -/

/-- The counters and flags of a step start afresh. -/
def State.stepStart (s : State) : State :=
  s.setSc fun c => { c with detAll := true, detAny := false, straggled := false, dropped := 0, lateAdded := 0, sampled := [] }

/-- Steps 5 and 6 of R380. -/
def State.commitDone (s : State) (resolved : Bool) : State :=
  let n := s.rd Reg.SC_STEP.COUNT
  let k := s.sc.commit
  let s := ((s.wr Reg.SC_STEP.COUNT (n + 1)).wr Reg.SC_STATUS.PHASE Phase.OPEN).wr Reg.SC_STATUS.STEP_FAULT 0
  let s := (s.inc Reg.SC_COUNT0.COMMITS 1).wr Reg.SC_LAST.OUTCOME (if resolved then 5 else 1)
  let s := (s.rplConsume n).stepStart.tracePoint Ev.TP_STEP_BOUNDARY 9 hostIsland (leBytes 8 n)
  let s := s.setSc fun c => { c with
    flip := none, half := false, commit := none, calOn := s.on Reg.POLICY_CTRL.CAL_EN
    lates := c.lates.filter fun l => decide (n + 1 ≤ l.step + l.stale) }
  match k with
  | some k => s.completeOp k
  | none => s

/-- Steps 4 and 5 of R163: resolution and, if it is due, the flip of the policy generation with its entry. -/
def State.resolveAndFlip (s : State) (n : Nat) : State :=
  let gen := s.flipGen n
  let s := s.resolveAll n
  match gen with
  | some g =>
    let crcs := s.stageCrcs
    let s := s.policyFlip n g
    s.journal ⟨J.POLICY_FLIP, s.stepFlags false, n, [s.rd Reg.POLICY_CTRL.ACTIVE_GEN, 0, 0, 0] ++ crcs.flatMap (leBytes 4), false⟩
  | none => s

/-- Steps 2 to 4 of R380 once no snapshot pins the committed slot. Resolution waits while a policy tile of a die that resolves
stands on a held island (R177). -/
def State.flipOn (s : State) : State :=
  match s.sc.flip with
  | none => s
  | some f =>
    let cur := s.rd Reg.SC_STATUS.COMMIT_SLOT
    if f.queued || (!s.sc.half && s.rd (pinFld cur) != 0) then s
    else
      let n := s.rd Reg.SC_STEP.COUNT
      let s := if s.sc.half then s else (s.wr Reg.SC_STATUS.COMMIT_SLOT (1 - cur)).setSc fun c => { c with half := true }
      if !f.skip && s.resolveWaits then s
      else
        let s := if f.skip then s else s.resolveAndFlip n
        let s := s.journal ⟨if f.resolved then J.RESOLVED_COMMIT else J.COMMIT, s.stepFlags f.skip, n, s.outcomePayload, true⟩
        s.setSc fun c => { c with flip := some { f with queued := true } }

/-- The snapshots that pin a slot stop (R393). -/
def State.abortPins (s : State) (slot : Nat) : State :=
  s.setBufs (s.fe.bufs.map fun b => { b with ops := b.ops.map fun o => match o.work with
    | .snap sl st rs _ => if sl = slot then { o with work := .snap sl st rs true } else o
    | _ => o })

/-- Step 1 of R380: the pins of the committed slot are awaited or aborted. -/
def State.startFlip (s : State) (resolved skip : Bool) : State :=
  let cur := s.rd Reg.SC_STATUS.COMMIT_SLOT
  let s := s.setSc fun c => { c with flip := some ⟨resolved, skip, false⟩ }
  let s :=
    if s.sc.half || s.rd (pinFld cur) = 0 then s
    else if s.on Reg.SC_CTRL.SNAP_POLICY then s.abortPins cur
    else s.wr Reg.SC_STATUS.PHASE Phase.PIN_WAIT
  s.flipOn

/-- R381: the step is aborted; the running STEP_COMMIT fails where the abort is not from IN_DOUBT. -/
def State.abortStep (s : State) (resolved : Bool) : State :=
  let n := s.rd Reg.SC_STEP.COUNT
  let k := s.sc.commit
  let s := if s.sc.half then s.wr Reg.SC_STATUS.COMMIT_SLOT (1 - s.rd Reg.SC_STATUS.COMMIT_SLOT) else s
  let s := ((s.wr Reg.SC_STATUS.STEP_FAULT 0).inc Reg.SC_COUNT0.ABORTS 1).wr Reg.SC_STATUS.PHASE Phase.OPEN
  let s := s.wr Reg.SC_LAST.OUTCOME (if resolved then 6 else 2)
  let s := s.journal ⟨if resolved then J.RESOLVED_ABORT else J.ABORT, s.stepFlags false, n, s.outcomePayload, false⟩
  let s := s.stepStart.setSc fun c => { c with
    half := false, commit := none, lates := c.lates.filter fun l => l.step != n
    lateWait := c.lateWait.map fun l => if l.step = n then { l with drop := true } else l }
  match k with
  | some k => s.opFault k Ev.COMMIT_ABORT 9 hostIsland []
  | none => s

/-- The running STEP_COMMIT has formed its vote and waits. -/
def State.voted (s : State) : Bool :=
  match s.sc.commit.bind fun k => s.op? k with
  | some o => o.work = .pending 0
  | none => false

/-- A decision that reaches this module (R380, R381, R384). -/
def State.takeDecision (s : State) (v : Verdict) (ready missing : Nat) : State :=
  let note := fun (s : State) => (s.wr Reg.SC_LAST.READY ready).wr Reg.SC_LAST.MISSING missing
  if s.stopped then s
  else if s.phase = Phase.IN_DOUBT then
    (note s).wr Reg.SC_LAST.LATE_DECISION (match v with
      | .commit => if s.sc.scope = 1 then 3 else 1
      | .abort => 2)
  else if s.phase = Phase.VOTING && s.voted && s.sc.flip.isNone then
    match v with
    | .abort => (note s).abortStep false
    | .commit =>
      if s.sc.scope = 0 then (note s).startFlip false false
      else ((note s).wr Reg.SC_STATUS.PHASE Phase.PREPARED).wr Reg.SC_LAST.OUTCOME 3
  else s

/-! ## The root (R378, R417 to R419) -/

/-- Control codes of R426. -/
def Ctrl.HEARTBEAT := 1
def Ctrl.MAP := 2
def Ctrl.JOIN := 3
def Ctrl.LEAVE := 4
def Ctrl.DOWN_NOTICE := 5
def Ctrl.VOTE := 6
def Ctrl.DECISION := 7
def Ctrl.MSG_DONE := 8

def State.setDom (s : State) (f : Domain → Domain) : State := { s with dom := f s.dom }

/-- The root of the map: the member with the lowest index (R411). -/
def State.root? (s : State) : Option Nat := s.dom.members.min?
def State.isRoot (s : State) : Bool := s.root? = some s.myIndex

def Verdict.code : Verdict → Nat
  | .commit => 1
  | .abort => 2

/-- A decision on its way to a voter; the root's own arrives at once. -/
def State.sendDecision (s : State) (m : Nat) (step : Nat) (v : Verdict) (ready missing : Nat) : State :=
  if m = s.myIndex then s.takeDecision v ready missing else s.ctrlTo Ctrl.DECISION m [v.code, step, ready, missing]

/-- The root decides: to every module that has voted. -/
def State.decideStep (s : State) (step : Nat) (v : Verdict) : State :=
  let vs := s.dom.votes
  let voters := vs.map Vote.member
  let ready := Sys2Proof.Machine.count Vote.ready vs
  let missing := Sys2Proof.Machine.count (fun m => !voters.contains m) s.dom.membership
  let s := s.setDom fun d =>
    { d with votes := [], decided := some (step, v, ready, missing), answered := voters, membership := d.members, departed := false }
  voters.foldl (fun s m => s.sendDecision m step v ready missing) s

/-- The root's own vote, if it holds one. -/
def State.ownVote (s : State) : Option Vote := s.dom.votes.find? fun v => v.member = s.myIndex

/-- A condition of R378, R417 or R418 for ABORT holds. -/
def State.mustAbort (s : State) : Bool :=
  let vs := s.dom.votes
  let d := s.dims
  vs.any (fun v => !v.ready || decide (v.epoch < s.dom.firstEpoch)) ||
  s.dom.departed || s.dom.membership.any (fun m => !s.dom.members.contains m) || decide (2 * s.dom.members.length ≤ d.1 * d.2.1 * d.2.2) ||
  match s.ownVote with
  | some o => vs.any fun v => v.step != o.step || v.scope != o.scope
  | none => false

/-- The root judges the votes it holds. -/
def State.judgeVotes (s : State) : State :=
  match s.dom.votes with
  | [] => s
  | v :: _ =>
    let step := (s.ownVote.map Vote.step).getD v.step
    if s.mustAbort then s.decideStep step .abort
    else if s.ownVote.isSome && s.dom.membership.all (fun m => s.dom.votes.any fun v => v.member = m) then s.decideStep step .commit
    else s

/-- A vote that reaches this module as root. A late vote is answered with the decision; a module that already has it votes
anew (log entry 83). -/
def State.takeVote (s : State) (v : Vote) : State :=
  if s.stopped || !s.isRoot || s.dom.elected = some v.step then s
  else
    let late := match s.dom.decided with
      | some d => if d.1 = v.step && !s.dom.answered.contains v.member then some d else none
      | none => none
    match late with
    | some d => (s.setDom fun x => { x with answered := v.member :: x.answered }).sendDecision v.member d.1 d.2.1 d.2.2.1 d.2.2.2
    | none =>
      let first := s.dom.votes.isEmpty
      let s := s.setDom fun d => { d with
        votes := d.votes.filter (fun x => x.member != v.member) ++ [v]
        voteTime := if first then s.now else d.voteTime
        firstEpoch := if first then d.epoch else d.firstEpoch }
      s.judgeVotes

/-- This module's vote on its way to the root of its map; a module without a map has none (R379 follows). -/
def State.sendVote (s : State) (v : Vote) : State :=
  match s.root? with
  | none => s
  | some r => if r = s.myIndex then s.takeVote v else s.ctrlTo Ctrl.VOTE r [v.step, v.scope, b2n v.ready, v.epoch]

/-! ## STEP_COMMIT (R375 to R377, R170) -/

/-- READY of R376. -/
def State.voteReady (s : State) (step : Nat) : Bool :=
  let c := s.rd Reg.SC_CTRL.TRAIN_CTX
  step = s.rd Reg.SC_STEP.COUNT && c != 0 && (s.ctx c).st = .active && s.ctxInFlight c = 0 && !s.on Reg.SC_STATUS.STEP_FAULT &&
  (!s.on Reg.SC_CTRL.REPLAY || s.replayReady step)

/-- The vote is formed once step 2 of R163 is complete: under DET it waits for every shadow entry, otherwise for those of ops
that sampled DET, and the entries left are written as missed. -/
def opStepCommit (k : OpKey) (s : State) : State :=
  match s.opIs k Cls.STEP 0 .running with
  | none => s
  | some o =>
    if o.work != .none || s.phase != Phase.VOTING || s.shadowWaits o.det then s
    else
      let s := s.missAll
      let v : Vote := ⟨s.myIndex, o.num 0, o.num 1, s.voteReady (o.num 0), s.dom.epoch⟩
      let s := s.modOp k fun o => { o with work := .pending 0 }
      let s := s.setSc fun c => { c with commit := some k, scope := o.num 1, deadline := o.num 2, votedAt := s.now }
      s.sendVote v

def opVote (v : Vote) (s : State) : State := s.takeVote v

/-- DEADLINE_US of the root's own STEP_COMMIT have passed since the first vote; without one the root knows no deadline of its
own (log entry 83). -/
def State.voteDue (s : State) : Bool := !s.voted || decide (s.dom.voteTime + 1000 * s.sc.deadline ≤ s.now)

/-- The deadline of the votes passes at the root. -/
def opVoteDeadline (s : State) : State :=
  match s.dom.votes with
  | [] => s
  | v :: _ => if s.stopped || !s.isRoot || !s.voteDue then s else s.decideStep ((s.ownVote.map Vote.step).getD v.step) .abort

def opDecision (v : Verdict) (ready missing : Nat) (s : State) : State := s.takeDecision v ready missing

/-- No decision by 2 × DEADLINE_US (R379, R382). -/
def opDecisionTimeout (s : State) : State :=
  match s.sc.commit with
  | none => s
  | some k =>
    if s.stopped || s.phase != Phase.VOTING || !s.voted || s.sc.flip.isSome || s.now < s.sc.votedAt + 2000 * s.sc.deadline then s
    else
      let s := (s.wr Reg.SC_STATUS.PHASE Phase.IN_DOUBT).wr Reg.SC_LAST.OUTCOME 4
      (s.setSc fun c => { c with commit := none }).opFault k Ev.COMMIT_IN_DOUBT 9 hostIsland []

/-! ## Resolves (R383) -/

/-- A write of SC_RESOLVE. -/
def opScResolve (w : Wr) (s : State) : State :=
  let off := Reg.SC_RESOLVE.COMMIT.off
  let takes := fun f => w.starts f && s.admits w.src f && !s.unreachable w.src off
  let c := takes Reg.SC_RESOLVE.COMMIT
  let a := takes Reg.SC_RESOLVE.ABORT
  let s := s.writeAt off w
  let ph := s.phase
  if s.stopped || !(c || a) then s
  else if (c && a) || !(ph = Phase.PREPARED || ph = Phase.IN_DOUBT) || s.sc.flip.isSome ||
      s.rd Reg.SC_RESOLVE_STEP.STEP != s.rd Reg.SC_STEP.COUNT then
    s.note Ev.RESOLVE_STALE 9 hostIsland none
      [(8, s.rd Reg.SC_RESOLVE_STEP.STEP), (8, s.rd Reg.SC_STEP.COUNT), (1, ph), (1, b2n c + 2 * b2n a)]
  else if c then s.startFlip true (ph = Phase.IN_DOUBT)
  else s.abortStep true

def opScResolveCommit (w : Wr) (s : State) : State := opScResolve w s
def opScResolveAbort (w : Wr) (s : State) : State := opScResolve w s

/-! ## Writes of step state and of DET (R366, R370, R377) -/

/-- PHASE is OPEN and no STEP_COMMIT is staged or running. -/
def State.stepWindow (s : State) : Bool :=
  s.phase = Phase.OPEN && !s.allOps.any fun p => p.2.cls = Cls.STEP && p.2.code = 0 && p.2.isHolding

/-- The fields that R366 guards. -/
def stepGated (f : Fld) : Bool :=
  [Reg.SC_STEP.COUNT, Reg.SC_SEED_LO.SEED, Reg.SC_SEED_HI.SEED, Reg.SC_CTRL.TRAIN_CTX, Reg.SC_CTRL.REPLAY].any fun g => g.key = f.key

/-- SNAP_POLICY becomes 1 during PIN_WAIT (R399). -/
def State.snapPolicyOn (s : State) : State :=
  if s.phase = Phase.PIN_WAIT && s.on Reg.SC_CTRL.SNAP_POLICY then s.abortPins (s.rd Reg.SC_STATUS.COMMIT_SLOT) else s

/-- A write of SC_STEP, SC_SEED_LO, SC_SEED_HI or SC_CTRL. -/
def opStepStateWrite (off : Nat) (w : Wr) (s : State) : State :=
  let fs := fieldsAt regRows off
  if s.unreachable w.src off then s
  else if s.stepWindow then
    let took := fs.filter fun f => stepGated f && w.covers f && !s.locked w f
    let s := s.writeFields off w fs
    let s := if took.any fun f => f.key = Reg.SC_CTRL.TRAIN_CTX.key then s.wr Reg.SC_STATUS.STEP_FAULT 0 else s
    if took.isEmpty then s else s.journal ⟨J.RUN, 0, s.rd Reg.SC_STEP.COUNT, s.runPayload, false⟩
  else
    let bad := fs.any fun f => stepGated f && w.covers f
    /- a gated field that the write only meets stays, so that the write is counted as one that spans it (R32) -/
    let open_ := fs.filter fun f => !stepGated f || !w.covers f
    let one := open_.any (s.locked w)
    let s := s.writeFields off w open_
    let s := if bad && !one then s.lockViolation w.src.code (w.place off) w.dropped else s
    s.snapPolicyOn

/-- A write of GLOBAL_MODE; each accepted write of DET is journalled (log entry 84). -/
def opDetWrite (w : Wr) (s : State) : State :=
  let f := Reg.GLOBAL_MODE.DET
  let took := w.covers f && !s.locked w f
  let s := s.writeAt f.off w
  if took then s.journal ⟨J.DET, 0, s.rd Reg.SC_STEP.COUNT, [s.rd f], false⟩ else s

/-! ## Snapshots (R390 to R394) -/

/-- An Ethernet port's queue pair. -/
def State.qp? (s : State) (port qpn : Nat) : Option Qp := s.qps.find? fun q => q.port = port && q.qpn = qpn

/-- A region entry: the place in the pinned slot, its bytes, its remote offset; none where it fails relocation. -/
def State.snapRegion (s : State) (c slot : Nat) (bs : List Nat) : Option (Loc × Nat × Nat) :=
  let stride := leAt bs 4 4 % 2 ^ 24
  let n := leAt bs 0x10 8 % 2 ^ 40
  let l : Loc := ⟨false, leAt bs 0 4 * 2 ^ 40 + leAt bs 8 8 % 2 ^ 40⟩
  if n % 64 != 0 then none
  else (s.relocate c l true stride n true false).map fun l => (l.plus (4096 * stride * slot), n, leAt bs 0x18 8)

/-- SNAPSHOT, which pinned the committed slot at its dispatch, begins to write its regions. -/
def opSnapshot (k : OpKey) (errs : List MemErr) (s : State) : State :=
  match s.opIs k Cls.STEP 1 .running with
  | none => s
  | some o =>
    match o.work with
    | .snap slot step [] false =>
      let list := o.locOf 0
      let n := o.num 1
      s.accessing k errs [⟨false, list, 32 * n⟩] fun s =>
        let rs := allSome ((List.range n).map fun i => s.snapRegion k.ctx slot (s.read (list.plus (32 * i)) 32))
        match s.qp? (o.num 2 / 2 ^ 24) (o.num 2 % 2 ^ 24), rs with
        | some q, some rs =>
          if q.owner != k.ctx then s.opFault k Ev.SNAP_BAD 9 hostIsland []
          else if q.error then s.opFault k Ev.ETH_QP_ERROR 11 (ethIsland q.port) []
          else
            s.accessing k errs (rs.map fun r => ⟨false, r.1, r.2.1⟩) fun s =>
              s.modOp k fun o => { o with work := .snap slot step rs false }
        | _, _ => s.opFault k Ev.SNAP_BAD 9 hostIsland []
    | _ => s

/-- The regions as far as the remote side acknowledged them, as RDMA WRITEs in list order (R392, log entry 85). -/
def State.snapWrites (s : State) (o : Op) : List (Loc × Nat × Nat) → Nat → State
  | [], _ => s
  | (l, n, r) :: rest, left =>
    let m := min n left
    let s := if m = 0 then s
      else s.send (.rdmaWrite (o.num 2 / 2 ^ 24) (o.num 2 % 2 ^ 24) (o.num 3) (o.num 4 + r) (s.read l m))
    s.snapWrites o rest (left - m)

/-- Every write is acknowledged, or an aborted snapshot has no write outstanding: STATUS, its journal entry, the pin. -/
def opSnapshotComplete (k : OpKey) (acked : Nat) (errs : List MemErr) (s : State) : State :=
  match s.opIs k Cls.STEP 1 .running with
  | none => s
  | some o =>
    match o.work with
    | .snap slot step rs aborting =>
      let total := sumNat (rs.map fun r => r.2.1)
      let bytes := min acked total
      if !aborting && (rs.isEmpty || bytes != total) then s
      else
        let st := leBytes 8 step ++ [slot, b2n aborting, 0, 0, 0, 0, 0, 0] ++ leBytes 8 bytes
        let s := s.snapWrites o rs bytes
        s.accessing k errs [⟨true, o.locOf 5, 64⟩] fun s =>
          let s := s.write (o.locOf 5) (st ++ List.replicate 40 0)
          let s := s.journal ⟨J.SNAPSHOT, 0, step, st, false⟩
          let s := if aborting then s.note Ev.SNAPSHOT_ABORTED 9 hostIsland (some k.ctx) [] else s
          ((s.unpin slot).completeOp k).flipOn
    | _ => s

/-! ## The journal's writing (R396) -/

/-- The LAST_DENY_SRC code of the journal (R489). -/
def denyJournal := 3

def State.jnlFull (s : State) : Bool :=
  decide (2 ^ s.sc.jSizeLog2 ≤ (s.rd Reg.SC_JNL_HEAD.HEAD + 2 ^ 32 - s.rd Reg.SC_JNL_TAIL.TAIL) % 2 ^ 32)

/-- The copy of an entry in the host ring; a refusal clears EN. -/
def State.jnlHost (s : State) (bytes : List Nat) : State :=
  let head := s.rd Reg.SC_JNL_HEAD.HEAD
  let a := s.sc.jBase + 128 * (head % 2 ^ s.sc.jSizeLog2)
  if s.windowAdmits a 128 true then
    { s with hostMem := s.hostMem.wrBytes a bytes }.wr Reg.SC_JNL_HEAD.HEAD (head + 1)
  else
    ((s.deny a denyJournal).wr Reg.SC_JNL_CTRL.EN 0).note Ev.JOURNAL_REFUSED 9 hostIsland none [(8, a), (8, s.sc.jseq)]

/-- The oldest entry is written; it waits while the host ring is full. A commit sequence that a discarded snapshot held up
goes on first (log entry 80). -/
def opJournalWrite (s : State) : State :=
  if s.stopped then s
  else
    let s := s.flipOn
    match s.sc.jpend with
    | [] => s
    | e :: rest =>
      if s.on Reg.SC_JNL_CTRL.EN && s.jnlFull then s
      else
        let bytes := e.bytes s.sc.jseq s.now
        let s := if s.on Reg.SC_JNL_CTRL.EN then s.jnlHost bytes else s
        let s := s.setSc fun c =>
          { c with jpend := rest, reserve := mapSet c.reserve (c.jseq % 4096) bytes, jseq := c.jseq + 1 }
        if e.commits then s.commitDone ((s.sc.flip.map Flip.resolved).getD false) else s

def execStepCommit (k : OpKey) (s : State) : Out := .next (opStepCommit k s)
def execVote (v : Vote) (s : State) : Out := .next (opVote v s)
def execVoteDeadline (s : State) : Out := .next (opVoteDeadline s)
def execDecision (v : Verdict) (ready missing : Nat) (s : State) : Out := .next (opDecision v ready missing s)
def execDecisionTimeout (s : State) : Out := .next (opDecisionTimeout s)
def execScResolveCommit (w : Wr) (s : State) : Out := .next (opScResolveCommit w s)
def execScResolveAbort (w : Wr) (s : State) : Out := .next (opScResolveAbort w s)
def execStepStateWrite (off : Nat) (w : Wr) (s : State) : Out := .next (opStepStateWrite off w s)
def execDetWrite (w : Wr) (s : State) : Out := .next (opDetWrite w s)
def execSnapshot (k : OpKey) (errs : List MemErr) (s : State) : Out := .next (opSnapshot k errs s)
def execSnapshotComplete (k : OpKey) (acked : Nat) (errs : List MemErr) (s : State) : Out := .next (opSnapshotComplete k acked errs s)
def execJournalWrite (s : State) : Out := .next (opJournalWrite s)

end Sys2Proof.Machine
end

