-- ==== Sys2Proof/Machine/BlackBox.lean ====
section
/-! DEFINITION. The black box in boot flash: its bytes, and how the Captain stores in it (R513 to R517). -/

namespace Sys2Proof.Machine

/-- The black box is 1 MiB. -/
def boxSize : Nat := 1048576

def sumTo {α : Type} (n : Nat) (size : Nat) (f : Nat → List α) (d : α) : List α :=
  (List.range n).flatMap fun i => ((f i) ++ List.replicate size d).take size

/-- The fitness maps of the last 8 boots: 18,432 bytes. -/
def BlackBox.mapBytes (b : BlackBox) : List Nat :=
  sumTo 8 2304 (fun i => match mapGet? b.maps i with
    | some m => m.bytes
    | none => []) 0

/-- The failure list: 1,024 entries in recording order. -/
def BlackBox.failBytes (b : BlackBox) : List Nat :=
  sumTo 1024 32 (fun i => match b.failList[i]? with
    | some f => f.bytes
    | none => []) 0

/-- The fault log: 4,096 records, PHASE 0. -/
def BlackBox.logBytes (b : BlackBox) : List Nat :=
  sumTo 4096 64 (fun i => match mapGet? b.faultLog i with
    | some e => e.bytes 0
    | none => []) 0

/-- The trace capture, oldest record first (log entry 93). -/
def BlackBox.traceBytes (b : BlackBox) : List Nat :=
  sumTo 2048 64 (fun i => match b.trace.reverse[i]? with
    | some e => e.bytes 0
    | none => []) 0

/-- The copy of the reserve ring. -/
def BlackBox.journalBytes (b : BlackBox) : List Nat := sumTo 4096 128 (fun i => mapGet b.journal [] i) 0

/-- The header (R516). -/
def BlackBox.headBytes (b : BlackBox) : List Nat :=
  let h := [0x4F, 0x5A, 0x42, 0x42] ++ leBytes 2 1 ++ [0, 0] ++ (b.serial ++ List.replicate 16 0).take 16 ++
    leBytes 4 b.bootSeq ++ leBytes 4 b.hours ++ (List.range 4).flatMap (fun k => leBytes 8 (nth b.counts 0 k)) ++
    leBytes 8 b.faultHead ++ leBytes 4 b.failures ++ leBytes 4 b.whistles ++
    ([b.mapBytes, b.failBytes, b.logBytes, b.traceBytes, b.journalBytes].flatMap fun x => leBytes 4 (crc32 x))
  let h := h ++ List.replicate (0xFC - h.length) 0
  h ++ leBytes 4 (crc32 h)

/-- The sections with their offsets and sizes, in order (R515). -/
def boxSections : List (Nat × Nat × (BlackBox → List Nat)) :=
  [(0, 256, BlackBox.headBytes), (0x1000, 18432, BlackBox.mapBytes), (0x8000, 32768, BlackBox.failBytes),
   (0x10000, 262144, BlackBox.logBytes), (0x50000, 131072, BlackBox.traceBytes), (0x80000, 524288, BlackBox.journalBytes)]

/-- What the bytes from `off` to `off + n` hold of one section: zeros outside it. -/
def BlackBox.part (b : BlackBox) (off n : Nat) (x : Nat × Nat × (BlackBox → List Nat)) : List Nat :=
  if x.1 < off + n && off < x.1 + x.2.1 then
    (List.replicate (x.1 - off) 0 ++ ((x.2.2 b).drop (off - x.1)).take (min (off + n) (x.1 + x.2.1) - max off x.1) ++
      List.replicate n 0).take n
  else List.replicate n 0

/-- `n` bytes of the black box from an offset; the sections do not overlap and every gap reads 0. -/
def BlackBox.read (b : BlackBox) (off n : Nat) : List Nat :=
  boxSections.foldl (fun acc x => List.zipWith (· + ·) acc (b.part off n x)) (List.replicate n 0)

/-! ## Storing (R500 step 6, R513 to R516) -/

def hourNs : Nat := 3600000000000

/-- Fault-log entries stored in their places, oldest first. -/
def BlackBox.putFaults (b : BlackBox) (es : List Event) : BlackBox :=
  es.foldl (fun b e => { b with faultLog := mapSet b.faultLog (b.faultHead % 4096) e, faultHead := b.faultHead + 1 }) b

/-- Failures appended while the list has room; every one is counted (R514). -/
def BlackBox.putFails (b : BlackBox) (fs : List FailRec) : BlackBox :=
  fs.foldl (fun b f => { b with failList := if b.failList.length < 1024 then b.failList ++ [f] else b.failList,
                                failures := b.failures + 1 }) b

/-- What the Captain stores of the retention buffer and of the boot. The trace capture and the journal are replaced when a
whistle's entries are stored, the journal also after a boot. -/
def State.storeBox (s : State) : BlackBox :=
  let b := (s.box.putFaults s.ev.faultLog).putFails s.fails
  let b := { b with counts := (List.range 4).map fun k => nth b.counts 0 k + nth s.ev.counts 0 k
                    hours := b.hours0 + s.now / hourNs }
  let newBoot := s.valid && b.bootSeq != s.bootSeq
  let b := match s.fit with
    | some m => if newBoot then { b with bootSeq := s.bootSeq, maps := mapSet b.maps (s.bootSeq % 8) m } else b
    | none => b
  let whistled := !s.ev.capture.isEmpty
  let b := if whistled then { b with trace := s.ev.capture } else b
  if newBoot || whistled then { b with journal := s.sc.reserve } else b

end Sys2Proof.Machine
end

