-- ==== Sys2Proof/Machine/Collective.lean ====
section
/-! DEFINITION. The collective engine: rank tables, contributions and error feedback, READY, DATA and MSG_DONE, reduction
and straggler absorption, and the loss of a peer (R385 to R388, R421 to R431). -/

namespace Sys2Proof.Machine

/-- Codes of R311. -/
def Coll.REDUCE_SCATTER := 0
def Coll.ALL_GATHER := 1
def Coll.ALL_REDUCE := 2

/-! ## Shards and payloads (R422, R424, R428) -/

/-- A collective's fixed numbers: elements, blocks, ranks, own rank, wire format. -/
def Op.collE (o : Op) : Nat := collElements o.code o.opnds
def Op.collB (o : Op) : Nat := ceilDiv o.collE 32
def Op.collR (o : Op) : Nat := o.num 4
def Op.myRank (o : Op) : Nat := o.num 5
def Op.shardAt (o : Op) (i : Nat) : Nat := shardLo o.collB o.collR i
def Op.shardLen (o : Op) (i : Nat) : Nat := shardBlocks o.collB o.collR i
/-- Elements of shard `i` that exist. -/
def Op.shardElems (o : Op) (i : Nat) : Nat := min o.collE (32 * (o.shardAt i + o.shardLen i)) - min o.collE (32 * o.shardAt i)
def Op.overEth (o : Op) : Bool := o.num 7 = 1
def Op.reduces (o : Op) : Bool := o.code != Coll.ALL_GATHER

/-- `n` blocks of values in a wire format. -/
def payloadEnc (fmt n : Nat) (vals : List Num) (rnd : Nat → Rnd) : List Nat :=
  let es := (List.range n).map fun b => encBlk fmt none (SrcBlk.fresh false) (blockOf vals b) fun i => rnd (32 * b + i)
  es.flatMap (·.data) ++ (if fmt = 5 || fmt = 6 then es.map (·.scale) else [])

/-- The values of `n` blocks in a wire format. -/
def payloadDec (fmt n : Nat) (bs : List Nat) : List Num :=
  (List.range n).flatMap fun b =>
    if fmt = 0 then (qblkOfBits false (leAt bs (18 * b) 18)).vals
    else if fmt = 9 then (List.range 32).map fun k => bf16Val (leAt bs (64 * b + 2 * k) 2)
    else mxfp8Vals (fp8Fmt fmt) (leAt bs (32 * n + b) 1) ((List.range 32).map fun k => leAt bs (32 * b + k) 1)

/-- The elements of a plain FP32 or BF16 operand. -/
def State.plainVals (s : State) (r : Ref) (t : Tensor) : List Num :=
  (List.range t.blocks).flatMap fun b => (t.plainBlock (fun off n => s.read (r.loc.plus off) n) b).vals

/-- Elements in a plain format, rounded to nearest even. -/
def plainBytes (fmt : Nat) (vals : List Num) : List Nat :=
  vals.flatMap fun v => if fmt = 10 then leBytes 4 (f32Of v) else leBytes 2 (bf16Of v)


/-! ## Faults (R421, R423) -/

/-- SOURCE of the collective engine's own events (log entry 87). -/
def collIsland : Nat := linkIsland 0

def State.collLost (s : State) (k : OpKey) : State := s.opFault k Ev.COLL_PEER_LOST 10 collIsland []

/-- A LINK rank table that names a non-member, a module twice, or another module at this rank. -/
def State.tableBad (s : State) (o : Op) (ranks : List Nat) : Bool :=
  let ms := ranks.map (· % 4096)
  ms.any (fun m => !s.dom.members.contains m) || ms.eraseDups.length != ms.length || nth ms 0 o.myRank != s.myIndex

/-- An ETH rank whose queue pair this op cannot use: free, another's, or in ERROR (R456, log entry 87). -/
def State.qpsBad (s : State) (k : OpKey) (o : Op) (ranks : List Nat) : Bool :=
  ((List.range ranks.length).filter (· != o.myRank)).any fun i =>
    let e := nth ranks 0 i
    match s.qp? (bitsOf e 24 3) (bitsOf e 0 24) with
    | some q => q.owner != k.ctx || q.error
    | none => true

/-! ## Messages (R426, R427, R431) -/

/-- A running collective: its op and its work. -/
def State.coll? (s : State) (k : OpKey) : Option (Op × CollWork) :=
  match s.op? k with
  | some o => match o.work with
    | .coll w => if o.st = .running then some (o, w) else none
    | _ => none
  | none => none

def State.modColl (s : State) (k : OpKey) (f : CollWork → CollWork) : State :=
  s.modOp k fun o => match o.work with
    | .coll w => { o with work := .coll (f w) }
    | _ => o

/-- The running collectives. -/
def State.colls (s : State) : List OpKey :=
  s.allOps.filterMap fun p => match p.2.work with
    | .coll _ => if p.2.st = .running then some p.1 else none
    | _ => none
def State.collOf (s : State) (tag : Nat) : Option OpKey :=
  s.colls.find? fun k => match s.coll? k with
    | some (_, w) => w.tag = tag
    | none => false

/-- One message to a rank; none where no plane has a full path. -/
def State.collSend (s : State) (o : Op) (w : CollWork) (shard rank : Nat) (bytes : List Nat) : Option State :=
  let dst := nth w.ranks 0 rank
  if o.overEth then some (s.send (.data w.tag shard o.myRank dst bytes))
  else (s.message Flit.DATA shard w.tag o.myRank (dst % 4096) bytes).map fun t => t.send (.data w.tag shard o.myRank dst bytes)

/-- READY to a rank, with the DET that this rank sampled, in MSG of its flit (R372, log entry 88). -/
def State.sendReady (s : State) (o : Op) (w : CollWork) (rank : Nat) : Option State :=
  let dst := nth w.ranks 0 rank
  let msg := Sent.ready w.tag o.myRank o.det dst
  if o.overEth then some (s.send msg)
  else (s.message Flit.READY (b2n o.det) w.tag o.myRank (dst % 4096) []).map fun t => t.send msg

/-- MSG_DONE to the sender of a completed message. -/
def State.sendDone (s : State) (eth : Bool) (entry tag shard myRank : Nat) : State :=
  let fields := [tag, shard, myRank]
  if eth then s.send (.ctrl Ctrl.MSG_DONE entry fields) else s.ctrlTo Ctrl.MSG_DONE (entry % 4096) fields

/-- The messages that this rank owes the ranks whose READY it holds: (shard, rank, bytes). -/
def collOwed (o : Op) (w : CollWork) : List (Nat × Nat × List Nat) :=
  let me := o.myRank
  (w.ready.filter (· != me)).flatMap fun r =>
    (if o.reduces then [(r, r, nth w.own [] r)] else [(me, r, nth w.own [] me)]) ++
    (match w.result with
      | some bs => if o.code = Coll.ALL_REDUCE then [(me, r, bs)] else []
      | none => [])

def State.sendAll (s : State) (o : Op) (w : CollWork) : List (Nat × Nat × List Nat) → Option State
  | [] => some s
  | (sh, r, bs) :: rest => (s.collSend o w sh r bs).bind fun t => t.sendAll o w rest

/-- What is owed and not sent goes out; a rank without a path is lost. -/
def State.collServe (s : State) (k : OpKey) : State :=
  match s.coll? k with
  | none => s
  | some (o, w) =>
    let owed := (collOwed o w).filter fun m => !w.sent.contains (m.1, m.2.1)
    match s.sendAll o w owed with
    | none => s.collLost k
    | some t => t.modColl k fun w => { w with sent := w.sent ++ owed.map fun m => (m.1, m.2.1) }

/-- Every message is sent and acknowledged, and every shard this rank writes is written. -/
def collComplete (o : Op) (w : CollWork) : Bool :=
  (List.range o.collR).all (fun r => r = o.myRank || w.ready.contains r) &&
  (collOwed o w).all (fun m => w.acked.contains (m.1, m.2.1)) &&
  (if o.code = Coll.REDUCE_SCATTER then w.got.contains o.myRank else (List.range o.collR).all w.got.contains)

def State.collCheck (s : State) (k : OpKey) : State :=
  match s.coll? k with
  | none => s
  | some (o, w) => if collComplete o w then (s.inc Reg.COLL_COUNT.DONE 1).executed k else s

/-! ## Results (R386, R387, R429) -/

/-- Values of a shard written to DST. -/
def State.collWrite (s : State) (k : OpKey) (o : Op) (errs : List MemErr) (shard : Nat) (vals : List Num) : State :=
  match o.ref? 1 with
  | none => s
  | some r =>
    let fmt := (r.tensor.map (·.fmt)).getD 10
    let at_ := if o.code = Coll.REDUCE_SCATTER then 0 else 32 * o.shardAt shard * elemSize fmt
    let bytes := plainBytes fmt (vals.take (o.shardElems shard))
    s.accessing k errs [⟨true, r.loc.plus at_, bytes.length⟩] fun s =>
      (s.write (r.loc.plus at_) bytes).modColl k fun w => { w with got := shard :: w.got }

/-- A shard's distributed bytes arrive: each rank decodes them into DST. -/
def State.collTake (s : State) (k : OpKey) (o : Op) (errs : List MemErr) (shard : Nat) (bytes : List Nat) : State :=
  s.collWrite k o errs shard (payloadDec (o.num 2) (o.shardLen shard) bytes)

/-- The accumulator times R over k, formed exactly and rounded once. -/
def scaleResult (acc r k : Nat) : Nat :=
  match f32Val acc with
  | .fin d => if k = r || d.isZero then acc else ratToF32 (d.mul (Dy.ofNat r)) (Dy.ofNat k)
  | _ => f32Of (f32Val acc)

/-- The late contributions that an op adds: (weight, values), in ascending order of origin step and rank. -/
def State.collLates (s : State) (o : Op) (id : Nat) : List (LateRec × Num) :=
  if o.num 8 != 2 || o.det then []
  else
    let w := fun n => bf16Val (s.rd (nth [Reg.SC_STALE_W.W1, Reg.SC_STALE_W.W2, Reg.SC_STALE_W.W3, Reg.SC_STALE_W.W4] Reg.SC_STALE_W.W1 (n - 1)))
    let mine := s.sc.lates.filter fun l =>
      l.tensor = id && l.shard = o.myRank && decide (l.step < o.step) && decide (o.step - l.step ≤ l.stale) && decide (l.time < o.t0)
    (sortBy (fun a b => decide (a.step < b.step) || (a.step = b.step && decide (a.rank ≤ b.rank))) mine).map
      fun l => (l, w (o.step - l.step))

/-- The reduced FP32 bits of this rank's shard. -/
def reduceShard (o : Op) (onTime : List (List Nat)) (lates : List (LateRec × Num)) : List Nat :=
  let fmt := o.num 2
  let n := o.shardLen o.myRank
  let cs := onTime.map (payloadDec fmt n)
  let ls := lates.map fun l => (l.2, payloadDec fmt n l.1.bytes)
  (List.range (32 * n)).map fun e =>
    let acc := cs.foldl (fun a c => f32Acc a (nth c Num.zero e)) 0
    let acc := ls.foldl (fun a l => f32Acc a (l.1.mul (nth l.2 Num.zero e))) acc
    scaleResult acc o.collR (cs.length + ls.length)

/-- DEADLINE_US after this rank's own contribution was ready (R385). -/
def shardDeadline (o : Op) (w : CollWork) : Nat :=
  ((w.msgs.find? fun m => m.shard = o.myRank && m.rank = o.myRank).bind (·.done)).getD 0 + 1000 * o.num 9

/-- A complete contribution is on time: under WAIT and DET every one is. -/
def onTime (o : Op) (w : CollWork) (m : CollMsg) : Bool :=
  o.num 8 = 0 || o.det || decide (m.done.getD 0 ≤ shardDeadline o w)

/-- This rank judges its shard with the contributions that are complete, under the DET that it sampled (R372). -/
def State.collJudge (s : State) (k : OpKey) (errs : List MemErr) : State :=
  match s.coll? k with
  | none => s
  | some (o, w) =>
    let me := o.myRank
    let id := ((o.ref? 0).bind (·.tensor)).map (·.id) |>.getD 0
    let done := fun r => w.msgs.find? fun m => m.shard = me && m.rank = r && m.done.isSome
    let all := (List.range o.collR).filterMap fun r => done r
    let here := all.filter (onTime o w)
    let late := all.filter fun m => !onTime o w m
    let missing := (List.range o.collR).filter fun r => (done r).isNone
    if 2 * here.length < o.collR then s.opFault k Ev.STRAGGLER_QUORUM 10 collIsland []
    else
      let lates := s.collLates o id
      let body := fun (m : CollMsg) => m.flits.flatMap (·.2)
      let n := 32 * o.shardLen me
      let bits :=
        if o.det || w.chosen = 0 then reduceShard o (here.map body) lates
        else (List.range n).map fun i => (Config.freeWord (s.free + i)).toNat % 2 ^ 32
      let s := { s with free := s.free + n }
      let drop := o.num 8 = 1
      let nDrop := if drop then missing.length + late.length else 0
      let waits := missing.map fun r =>
        LateWait.mk w.tag id o.step (o.num 10) drop ((w.msgs.find? fun m => m.shard = me && m.rank = r).getD ⟨me, r, [], none, none⟩)
          (nth w.ranks 0 r) o.overEth
      let odd := decide (0 < nDrop) || !lates.isEmpty
      let s := (s.inc Reg.SC_COUNT1.DROPPED nDrop).inc Reg.SC_COUNT1.LATE lates.length
      let s := s.setSc fun c => { c with
        dropped := c.dropped + nDrop, lateAdded := c.lateAdded + lates.length, straggled := c.straggled || odd
        lateWait := c.lateWait ++ waits
        lates := (c.lates.filter fun l => !(lates.any fun x => x.1 = l)) ++
          (if drop then [] else late.map fun m => LateRec.mk id o.step (o.num 10) m.rank m.shard (body m) (m.done.getD s.now)) }
      let s := if odd then s.note Ev.STRAGGLER 10 collIsland (some k.ctx) [] else s
      let s := s.modColl k fun w => { w with judged := true }
      let vals := bits.map f32Val
      if o.code = Coll.REDUCE_SCATTER then (s.collWrite k o errs me vals).collCheck k
      else
        let rnd := fun e => match (o.ref? 0).bind (·.tensor) with
          | some t => t.rnd s.seeds o.step (32 * o.shardAt me + e)
          | none => .rne
        let bs := payloadEnc (o.num 2) (o.shardLen me) vals rnd
        (((s.modColl k fun w => { w with result := some bs }).collTake k o errs me bs).collServe k).collCheck k

/-- A shard all of whose contributions are here is judged; the other straggler modes wait for STRAGGLER_DEADLINE. -/
def State.collTry (s : State) (k : OpKey) (errs : List MemErr) : State :=
  match s.coll? k with
  | none => s
  | some (o, w) =>
    if o.reduces && !w.judged && (List.range o.collR).all (fun r => w.msgs.any fun m => m.shard = o.myRank && m.rank = r && m.done.isSome)
    then s.collJudge k errs
    else s

/-! ## The start of a collective (R415, R423, R426, R428) -/

/-- This rank's contributions, and the bytes of EF_OUT. -/
def State.collEncode (s : State) (o : Op) (r : Ref) (t : Tensor) (ef : Option Loc) : List (List Nat) × List Nat :=
  let x := s.plainVals r t
  let fmt := o.num 2
  let b := o.collB
  let y := match ef with
    | none => x
    | some l =>
      let d := (List.range b).flatMap fun j => mxfp8Vals FFmt.e4m3 (s.readNat (l.plus (32 * b + j)) 1) (s.read (l.plus (32 * j)) 32)
      (x.zip d).map fun p => f32Val (f32Of (p.1.add p.2))
  let rnd := t.rnd s.seeds o.step
  if o.reduces then
    let own := (List.range o.collR).map fun i =>
      payloadEnc fmt (o.shardLen i) (y.drop (32 * o.shardAt i)) fun e => rnd (32 * o.shardAt i + e)
    let dec := (List.range o.collR).flatMap fun i => payloadDec fmt (o.shardLen i) (nth own [] i)
    let es := (List.range b).map fun j =>
      mxfp8Encode FFmt.e4m3 (((blockOf y j).zip (blockOf dec j)).map fun p => p.1.add p.2.neg) fun _ => .rne
    (own, es.flatMap (·.2.1) ++ es.map (·.1))
  else
    ((List.range o.collR).map fun i => if i = o.myRank then payloadEnc fmt (o.shardLen i) y rnd else [], [])

/-- READY to every other rank; none where one has no path. -/
def State.readyAll (s : State) (o : Op) (w : CollWork) : List Nat → Option State
  | [] => some s
  | r :: rest => if r = o.myRank then s.readyAll o w rest else (s.sendReady o w r).bind fun t => t.readyAll o w rest

/-- The shard of a block. -/
def Op.shardOf (o : Op) (b : Nat) : Nat :=
  ((List.range o.collR).find? fun i => decide (b < o.shardAt i + o.shardLen i)).getD 0

/-- EF_OUT with a free value for every byte of a shard that `lax` names; the data of B blocks stands before their scales. -/
def Op.efOut (o : Op) (lax : Nat → Bool) (free : Nat) (bs : List Nat) : List Nat :=
  let es := (List.range bs.length).zip bs
  es.map fun e =>
    let b := if e.1 < 32 * o.collB then e.1 / 32 else e.1 - 32 * o.collB
    if lax (o.shardOf b) then (Config.freeWord (free + e.1)).toNat % 256 else e.2

/-- A shard runs on the engine's choice of tree or fusion: the rank that reduces it sampled DET 0. What a contribution then
holds, and its error feedback, is a free value (R371, R372, R430, log entry 88). -/
def laxShard (o : Op) (chosen : Nat) (early : List (Nat × Bool)) (i : Nat) : Bool :=
  chosen != 0 && if i = o.myRank then !o.det else early.contains (i, false)

/-- A collective starts once its tensors have been read: contributions and error feedback are formed, READY goes out, and the
own contribution stands at the own shard. What stands in SCRATCH and in the late store is a free value, and a contribution
still expected under the same TAG is none (log entry 88). -/
def State.collStart (s : State) (k : OpKey) (o : Op) (ranks : List Nat) (r : Ref) (t : Tensor) (errs : List MemErr) : State :=
  let ef := (o.ref? 12).map (·.loc)
  let choice := Config.treeChoice s.free % 3
  let chosen := if choice = 2 && s.rd Reg.LINK_CTRL.FUSE_NS = 0 then 0 else choice
  let early := (s.dom.early.filter fun p => p.1 = o.num 6).map (·.2)
  let lax := laxShard o chosen early
  let e := s.collEncode o r t ef
  let own := ((List.range e.1.length).zip e.1).map fun b => if lax b.1 then freeBytes s.free b.2.length else b.2
  let sMax := payloadSize (o.num 2) (32 * shardMax o.collB o.collR)
  let store := fun i n => match o.ref? i with
    | some r => [(r.loc, freeBytes (s.free + 1) n)]
    | none => []
  let ws := (match o.ref? 13 with
      | some r => [(r.loc, o.efOut lax s.free e.2)]
      | none => []) ++
    store 14 ((o.collR - 1) * sMax) ++ (if o.num 8 = 2 && !o.det then store 11 (o.num 10 * o.collR * sMax) else [])
  s.accessing k errs (writeAccs ws) fun s =>
    let s := s.writeAll ws
    let s := { s with free := s.free + 1 + o.num 10 * o.collR * sMax + (o.collR - 1) * sMax }
    let s := if chosen = 2 && !o.det then s.inc Reg.COLL_COUNT.FUSED 1 else s
    let me := o.myRank
    let w : CollWork := ⟨o.num 6, ranks, own, early.map (·.1),
      if o.reduces then [⟨me, me, [(0, nth own [] me)], some 0, some s.now⟩] else [], [], [], false, none, [], chosen⟩
    let s := s.setDom fun d => { d with early := d.early.filter fun p => p.1 != o.num 6 }
    let s := s.setSc fun c => { c with lateWait := c.lateWait.filter fun l => l.tag != o.num 6 }
    let s := s.modOp k fun o => { o with work := .coll w }
    match s.readyAll o w (List.range o.collR) with
    | none => s.collLost k
    | some s =>
      let s := s.collServe k
      if o.reduces then (s.collTry k errs).collCheck k else (s.collTake k o errs me (nth own [] me)).collCheck k

/-- The start of one of the three collectives. -/
def opCollective (code : Nat) (k : OpKey) (errs : List MemErr) (s : State) : State :=
  match s.opIs k Cls.COLLECTIVE code .running with
  | none => s
  | some o =>
    if o.work != .none then s
    else if s.rd Reg.LINK_STATUS.MSTATE = 3 then s.collLost k
    else
      let table := o.locOf 3
      s.accessing k errs [⟨false, table, 8 * o.collR⟩] fun s =>
        let ranks := (List.range o.collR).map fun i => s.readNat (table.plus (8 * i)) 8
        if !o.overEth && s.tableBad o ranks then s.opFault k Ev.COLL_BAD 10 collIsland []
        else if o.overEth && s.qpsBad k o ranks then s.collLost k
        else
          match o.ref? 0 with
          | some r => match r.tensor with
            | some t =>
              let ef := match o.ref? 12 with
                | some e => [Acc.mk false e.loc (33 * o.collB)]
                | none => []
              s.accessing k errs (⟨false, r.loc, t.extent⟩ :: ef) fun s => s.collStart k o ranks r t errs
            | none => s
          | none => s

def opReduceScatter (k : OpKey) (errs : List MemErr) (s : State) : State := opCollective Coll.REDUCE_SCATTER k errs s
def opAllReduce (k : OpKey) (errs : List MemErr) (s : State) : State := opCollective Coll.ALL_REDUCE k errs s
def opAllGather (k : OpKey) (errs : List MemErr) (s : State) : State := opCollective Coll.ALL_GATHER k errs s

/-- The contribution deadline of this rank's shard expires; WAIT, and every op under DET, waits on. -/
def opStragglerDeadline (k : OpKey) (shard : Nat) (errs : List MemErr) (s : State) : State :=
  match s.coll? k with
  | none => s
  | some (o, w) => if !o.reduces || shard != o.myRank || w.judged || o.num 8 = 0 || o.det || s.now < shardDeadline o w then s
    else s.collJudge k errs

/-! ## Messages received (R385, R420, R426, R427) -/

/-- The shard of a rank whose READY says DET 0 runs on the engine's choice: this rank's contribution to it, and its error
feedback, are free values (R372). -/
def State.readyLax (s : State) (k : OpKey) (o : Op) (rank : Nat) : State :=
  let lax := fun i => i = rank
  let s := match o.ref? 13 with
    | some r => s.write r.loc (o.efOut lax s.free (s.read r.loc (33 * o.collB)))
    | none => s
  let t := s.modColl k fun w => { w with own := modifyAt w.own rank fun bs => freeBytes s.free bs.length }
  { t with free := t.free + 33 * o.collB }

/-- READY of a rank, with the DET that it sampled. -/
def opReady (tag rank : Nat) (det : Bool) (s : State) : State :=
  if s.stopped then s
  else
    match s.collOf tag with
    | none =>
      if s.dom.early.any fun p => p.1 = tag && p.2.1 = rank then s
      else s.setDom fun d => { d with early := d.early ++ [(tag, rank, det)] }
    | some k =>
      match s.coll? k with
      | none => s
      | some (o, w) =>
        if w.ready.contains rank then (s.collServe k).collCheck k
        else
          let s := if !det && w.chosen != 0 && o.reduces && rank != o.myRank then s.readyLax k o rank else s
          ((s.modColl k fun w => { w with ready := w.ready ++ [rank] }).collServe k).collCheck k

/-- A flit marked by OFFSET; a second copy changes nothing. The message is complete when every OFFSET is marked. -/
def CollMsg.mark (m : CollMsg) (offset : Nat) (last : Bool) (payload : List Nat) (now : Nat) : CollMsg :=
  if m.done.isSome then m
  else
    let m := { m with flits := mapSet m.flits offset payload, last := if last then some offset else m.last }
    match m.last with
    | some n => if m.flits.length = n + 1 then { m with done := some now } else m
    | none => m

/-- A flit of a contribution that its shard no longer waits for: dropped on arrival, or kept (R385). -/
def State.lateData (s : State) (l : LateWait) (m : CollMsg) (myRank : Nat) : State :=
  let rest := s.sc.lateWait.filter (· != l)
  if m.done.isNone then s.setSc fun c => { c with lateWait := rest ++ [{ l with msg := m }] }
  else
    let s := s.setSc fun c => { c with
      lateWait := rest
      lates := if l.drop then c.lates
        else c.lates ++ [⟨l.tensor, l.step, l.stale, m.rank, m.shard, m.flits.flatMap (·.2), s.now⟩] }
    s.sendDone l.eth l.entry l.tag m.shard myRank

/-- A message of this op's is one that this rank expects. -/
def Op.expects (o : Op) (shard rank : Nat) : Bool :=
  decide (rank < o.collR) && rank != o.myRank &&
  ((o.reduces && shard = o.myRank) || (o.code != Coll.REDUCE_SCATTER && shard = rank))

def opData (tag shard rank offset : Nat) (last : Bool) (payload : List Nat) (errs : List MemErr) (s : State) : State :=
  if s.stopped then s
  else
    match s.sc.lateWait.find? fun l => l.tag = tag && l.msg.shard = shard && l.msg.rank = rank with
    | some l => s.lateData l (l.msg.mark offset last payload s.now) shard
    | none =>
      match (s.collOf tag).bind fun k => (s.coll? k).map fun p => (k, p) with
      | none => s
      | some (k, o, w) =>
        if !o.expects shard rank then s
        else
          let old := (w.msgs.find? fun m => m.shard = shard && m.rank = rank).getD ⟨shard, rank, [], none, none⟩
          let m := old.mark offset last payload s.now
          let s := s.modColl k fun w => { w with msgs := w.msgs.filter (fun x => !(x.shard = shard && x.rank = rank)) ++ [m] }
          if old.done.isSome || m.done.isNone then s
          else
            let s := s.sendDone o.overEth (nth w.ranks 0 rank) tag shard o.myRank
            if shard = o.myRank then s.collTry k errs
            else (s.collTake k o errs shard (m.flits.flatMap (·.2))).collCheck k

def opMsgDone (tag shard rank : Nat) (s : State) : State :=
  match s.collOf tag with
  | none => s
  | some k => (s.modColl k fun w => if w.acked.contains (shard, rank) then w else { w with acked := (shard, rank) :: w.acked }).collCheck k

/-! ## Changes of the map and NACKs (R420, R421, R427) -/

/-- After a change of the map: a collective that has lost a rank fails, the others send every message without MSG_DONE again. -/
def State.collMap (s : State) : State :=
  s.colls.foldl (fun s k =>
    match s.coll? k with
    | none => s
    | some (o, w) =>
      if o.overEth then s
      else if w.ranks.any fun e => !s.dom.members.contains (e % 4096) then s.collLost k
      else
        let again := (collOwed o w).filter fun m => w.sent.contains (m.1, m.2.1) && !w.acked.contains (m.1, m.2.1)
        match s.sendAll o w again with
        | none => s.collLost k
        | some t => t.inc Reg.LINK_COUNT.RESENT again.length) s

/-- Every running collective fails (R416). -/
def State.collFailAll (s : State) : State := s.colls.foldl State.collLost s

/-- A transfer that reads or writes a device address. -/
def Xfer.hits (x : Xfer) (addr : Nat) : Bool :=
  let hit := fun (l : Loc) => !l.host && decide (l.addr ≤ addr) && decide (addr < l.addr + x.len)
  hit x.src || hit x.dst

/-- The outstanding transfer of an op at a device address: of its MOVE, or of its fetch. -/
def Op.xferAt (o : Op) (addr : Nat) : Option Nat :=
  let out := match o.work with
    | .move w => w.out
    | _ => o.fetch.out
  (out.find? fun e => e.2.hits addr).map (·.1)

/-- The op that has a transfer at a device address outstanding, and the transfer. -/
def State.xferAt (s : State) (addr : Nat) : Option (OpKey × Nat) :=
  s.allOps.findSome? fun p => (p.2.xferAt addr).map fun i => (p.1, i)

/-- The same among the ops that a discard order took. -/
def State.droppedAt (s : State) (addr : Nat) : Option (OpKey × Nat) :=
  s.se.dropped.findSome? fun p => (p.2.xferAt addr).map fun i => (p.1, i)

/-- A NACK fails the op that sent the refused flit or transfer. -/
def opNack (code tag addr : Nat) (s : State) : State :=
  if s.stopped then s
  else
    match s.collOf tag with
    | some k => s.collLost k
    | none =>
      match s.xferAt addr, s.droppedAt addr with
      | some e, _ => s.xferNack e.1 e.2 code addr
      | none, some e => (s.dropLanded e.1 e.2).streamNack e.1 code addr
      | none, none => s

def execReduceScatter (k : OpKey) (errs : List MemErr) (s : State) : Out := .next (opReduceScatter k errs s)
def execAllReduce (k : OpKey) (errs : List MemErr) (s : State) : Out := .next (opAllReduce k errs s)
def execAllGather (k : OpKey) (errs : List MemErr) (s : State) : Out := .next (opAllGather k errs s)
def execStragglerDeadline (k : OpKey) (shard : Nat) (errs : List MemErr) (s : State) : Out := .next (opStragglerDeadline k shard errs s)
def execReady (tag rank : Nat) (det : Bool) (s : State) : Out := .next (opReady tag rank det s)
def execData (tag shard rank offset : Nat) (last : Bool) (payload : List Nat) (errs : List MemErr) (s : State) : Out :=
  .next (opData tag shard rank offset last payload errs s)
def execMsgDone (tag shard rank : Nat) (s : State) : Out := .next (opMsgDone tag shard rank s)
def execNack (code tag addr : Nat) (s : State) : Out := .next (opNack code tag addr s)

end Sys2Proof.Machine
end

