-- ==== Sys2Proof/Machine/Ethernet.lean ====
section
/-! DEFINITION. The Ethernet ports and their queue pairs: inbound RoCE v2 requests, NAKs and retries, the loss of a link,
address resolution and flow control (R451 to R457). -/

namespace Sys2Proof.Machine

/-! ## Queue pairs (R453, R456) -/

def State.ethState (s : State) (p : Nat) : Nat := s.rd (Reg.ETH_PORT.STATE p)
/-- Port states of R457 are those of R409. -/
def State.ethUp (s : State) (p : Nat) : Bool := decide (p < 6) && s.ethState p = Port.UP

def State.modQp (s : State) (port qpn : Nat) (f : Qp → Qp) : State :=
  { s with qps := s.qps.map fun q => if q.port = port && q.qpn = qpn then f q else q }

/-- A running op uses a queue pair: a snapshot over it, or a collective whose rank table names it. -/
def Op.usesQp (o : Op) (port qpn : Nat) : Bool :=
  (o.st = .running || o.st = .executed) &&
  match o.work with
  | .snap _ _ _ _ => o.num 2 = port * 2 ^ 24 + qpn
  | .coll w => o.overEth && w.ranks.any fun e => bitsOf e 24 3 = port && bitsOf e 0 24 = qpn
  | _ => false

/-- The ops of the owner that use a queue pair which enters ERROR fail. -/
def State.failQpOps (s : State) (owner port qpn : Nat) : State :=
  let ks := (s.allOps.filter fun p => p.1.ctx = owner && p.2.usesQp port qpn).map fun p => (p.1, p.2.cls)
  ks.foldl (fun s k =>
    if (s.op? k.1).isNone then s
    else if k.2 = Cls.COLLECTIVE then s.collLost k.1
    else s.opFault k.1 Ev.ETH_QP_ERROR 11 (ethIsland port) []) s

/-- A queue pair in READY enters ERROR. -/
def State.qpError (s : State) (port qpn : Nat) : State :=
  match s.qp? port qpn with
  | none => s
  | some q => if q.error then s else (s.modQp port qpn fun q => { q with error := true }).failQpOps q.owner port qpn

/-- Every queue pair of a port that leaves UP enters ERROR. -/
def State.portQpsError (s : State) (port : Nat) : State :=
  (s.qps.filter fun q => q.port = port).foldl (fun s q => s.qpError q.port q.qpn) s

def State.nakCount (s : State) (port : Nat) : State := s.inc (Reg.ETH_COUNT.NAKS port) 1

/-- A NAK received on a queue pair. -/
def opEthNak (port qpn : Nat) (s : State) : State :=
  if s.stopped || !s.ethUp port || (s.qp? port qpn).isNone then s else (s.nakCount port).qpError port qpn

/-- The seventh retry fails. -/
def opEthRetryExhausted (port qpn : Nat) (s : State) : State :=
  if s.stopped || 6 ≤ port then s else s.qpError port qpn

/-! ## Inbound requests (R315, R452, R454, R455) -/

/-- Packets of a transfer at the path MTU. -/
def packets (n : Nat) : Nat := max 1 (ceilDiv n 4096)

/-- A request on a queue pair that answers requests: in READY, on a port that is UP. -/
def State.qpServing (s : State) (port qpn : Nat) : Option Qp :=
  if s.stopped || !s.ethUp port then none
  else match s.qp? port qpn with
    | some q => if q.error then none else some q
    | none => none

/-- The packets of a request are taken in sequence. -/
def State.qpAdvance (s : State) (q : Qp) (n : Nat) : State :=
  s.modQp q.port q.qpn fun q => { q with rqPsn := (q.rqPsn + packets n) % 2 ^ 24 }

/-- The place that an RKEY and an offset name for the owner, when the access passes. -/
def State.rkeyLoc (s : State) (owner rkey off n : Nat) (rd wr : Bool) : Option Loc :=
  match s.reloc? owner rkey with
  | none => none
  | some r => if s.relocOk r off n rd wr then some ⟨r.host, r.base + off⟩ else none

/-- A refused request: a remote-access NAK, ERROR, ETH_ACCESS on the owner. -/
def State.ethRefuse (s : State) (q : Qp) : State :=
  ((((s.send (.ethNak q.port q.qpn)).nakCount q.port).note Ev.ETH_ACCESS 11 (ethIsland q.port) (some q.owner) [])).qpError q.port q.qpn

/-- MEM_UE on the owner of a queue pair. -/
def State.qpUe (s : State) (q : Qp) (p : Nat) : State :=
  s.faultQ Ev.MEM_UE 6 (stackIsland (s.stackOf p)) q.owner [(8, p), (1, s.stackOf p)]

def opRdmaWrite (port qpn rkey off : Nat) (bytes : List Nat) (errs : List MemErr) (s : State) : State :=
  match s.qpServing port qpn with
  | none => s
  | some q =>
    let n := bytes.length
    match s.rkeyLoc q.owner rkey off n false true with
    | none => s.ethRefuse q
    | some l =>
      if l.host then
        if s.windowAdmits l.addr n true then (s.write l bytes).qpAdvance q n
        else (s.deny l.addr denyStream).ethRefuse q
      else
        let r := (s.memErrs (errsIn [⟨true, l, n⟩] errs)).devWrite l.addr bytes
        let s := r.1.qpAdvance q n
        match r.2 with
        | some p => s.qpUe q p
        | none => s

/-- An RDMA READ is answered with what the place holds; a byte that a buffer in progress writes reads as a free value (R444). -/
def opRdmaRead (port qpn rkey off len : Nat) (errs : List MemErr) (s : State) : State :=
  match s.qpServing port qpn with
  | none => s
  | some q =>
    match s.rkeyLoc q.owner rkey off len true false with
    | none => s.ethRefuse q
    | some l =>
      let reply := fun (s : State) =>
        let t := (s.send (.ethReply port qpn (s.seen l len))).qpAdvance q len
        { t with free := t.free + len }
      if l.host then
        if s.windowAdmits l.addr len false then reply s else (s.deny l.addr denyStream).ethRefuse q
      else
        let s := s.memErrs (errsIn [⟨false, l, len⟩] errs)
        match s.poisonIn l.addr len with
        | some p => (s.poisonRead p).qpUe q p
        | none => reply s

/-- A SEND is taken and acknowledged; what a collective's SEND says is READY's or MSG_DONE's command. -/
def opSend (port qpn : Nat) (bytes : List Nat) (s : State) : State :=
  match s.qpServing port qpn with
  | none => s
  | some q => (s.send (.ethReply port qpn [])).qpAdvance q bytes.length

/-! ## Ports (R451, R452, R457) -/

def State.ethPort (s : State) (p : Nat) : PortSt := mapGet s.eth PortSt.reset p
def State.setEthPort (s : State) (p : Nat) (x : PortSt) : State := { s with eth := mapSet s.eth p x }

/-- The link is lost; the third loss within a second takes the port DOWN. -/
def opEthLinkLost (p : Nat) (s : State) : State :=
  if s.stopped || !s.ethUp p then s
  else
    let x := s.ethPort p
    let recent := x.losses.filter fun t => decide (s.now ≤ t + 1000000000)
    let down := decide (2 ≤ recent.length)
    let s := s.setEthPort p { x with losses := s.now :: recent }
    let s := if down then s.recordFail 6 Ev.ETH_LINK_DOWN p 0 else s
    let s := s.wr (Reg.ETH_PORT.STATE p) (if down then Port.DOWN else Port.TRAINING)
    (s.note (if down then Ev.ETH_LINK_DOWN else Ev.ETH_LINK_LOST) 11 (ethIsland p) none []).portQpsError p

def opEthTrainingDone (p : Nat) (s : State) : State :=
  if s.stopped || 6 ≤ p || s.ethState p != Port.TRAINING then s else s.wr (Reg.ETH_PORT.STATE p) Port.UP

def opRoceRetransmission (p n : Nat) (s : State) : State :=
  if s.stopped || !s.ethUp p then s else s.inc (Reg.ETH_COUNT.RETRANS p) n

/-- A request for the port's own address is answered; any other is not. -/
def opArpRequest (p : Nat) (own : Bool) (s : State) : State :=
  if s.stopped || !s.ethUp p || !own then s else s.send (.arpReply p)

/-- A flow control frame pauses the priorities it names among those of PFC_MASK, and resumes the others. -/
def opPriorityFlowControlFrame (p mask : Nat) (s : State) : State :=
  if s.stopped || !s.ethUp p then s
  else s.setEthPort p { s.ethPort p with paused := mask &&& s.rd (Reg.ETH_PORT.PFC_MASK p) }

def execRdmaWrite (port qpn rkey off : Nat) (bytes : List Nat) (errs : List MemErr) (s : State) : Out :=
  .next (opRdmaWrite port qpn rkey off bytes errs s)
def execRdmaRead (port qpn rkey off len : Nat) (errs : List MemErr) (s : State) : Out := .next (opRdmaRead port qpn rkey off len errs s)
def execSend (port qpn : Nat) (bytes : List Nat) (s : State) : Out := .next (opSend port qpn bytes s)
def execEthNak (port qpn : Nat) (s : State) : Out := .next (opEthNak port qpn s)
def execEthRetryExhausted (port qpn : Nat) (s : State) : Out := .next (opEthRetryExhausted port qpn s)
def execEthLinkLost (p : Nat) (s : State) : Out := .next (opEthLinkLost p s)
def execEthTrainingDone (p : Nat) (s : State) : Out := .next (opEthTrainingDone p s)
def execRoceRetransmission (p n : Nat) (s : State) : Out := .next (opRoceRetransmission p n s)
def execArpRequest (p : Nat) (own : Bool) (s : State) : Out := .next (opArpRequest p own s)
def execPriorityFlowControlFrame (p mask : Nat) (s : State) : Out := .next (opPriorityFlowControlFrame p mask s)

end Sys2Proof.Machine
end

