-- ==== Sys2Proof/Machine/Captain.lean ====
section
/-! DEFINITION. The Captain: the mailbox and the firmware 3.x messages (R462 to R477). -/

namespace Sys2Proof.Machine

def State.setCap (s : State) (f : Captain → Captain) : State := { s with cap := f s.cap }

/-- The Captain runs and serves the mailbox. -/
def State.captainUp (s : State) : Bool := s.on Reg.MB_STATUS.FW_READY && !s.stopped

/-! ## Statuses and the catalogue (R467, R468) -/

def Mb.OK := 0
def Mb.UNSUPPORTED := 1
def Mb.BAD_LENGTH := 2
def Mb.BAD_VALUE := 3
def Mb.NO_RESOURCE := 4
def Mb.LIMIT := 5
def Mb.STATE := 6
def Mb.DUP_TAG := 7
def Mb.UNFIT := 8
def Mb.AUTH := 9
def Mb.BUSY := 10
def Mb.REFUSED := 11

def Msg.GET_VERSION := 0x0001
def Msg.CTX_CREATE := 0x0010
def Msg.CTX_SET_QUOTA := 0x0011
def Msg.CTX_SET_TIMEOUT := 0x0012
def Msg.QP_CREATE := 0x0020
def Msg.QP_FREE := 0x0021
def Msg.IMAGE_CHECK := 0x0030
def Msg.CAL_CONFIG := 0x0040
def Msg.CAL_REFIT := 0x0041
def Msg.FW_UPDATE := 0x0050
def Msg.FW_SVN_COMMIT := 0x0051
def Msg.BLACKBOX_READ := 0x0060

/-- Each opcode with its payload size and the payload bytes that are reserved. -/
def catalogue : List (Nat × Nat × List Nat) :=
  [(Msg.GET_VERSION, 0, []), (Msg.CTX_CREATE, 16, [10, 11]), (Msg.CTX_SET_QUOTA, 12, [10, 11]),
   (Msg.CTX_SET_TIMEOUT, 8, [2, 3]), (Msg.QP_CREATE, 36, [34, 35]), (Msg.QP_FREE, 8, [1, 2, 3]),
   (Msg.IMAGE_CHECK, 16, [13, 14, 15]), (Msg.CAL_CONFIG, 20, [19]), (Msg.CAL_REFIT, 40, [21, 22, 23, 36, 37, 38, 39]),
   (Msg.FW_UPDATE, 16, [12, 13, 14, 15]), (Msg.FW_SVN_COMMIT, 4, [1, 2, 3]), (Msg.BLACKBOX_READ, 8, [])]

/-- The messages that an unfit module serves. -/
def servedUnfit : List Nat := [Msg.GET_VERSION, Msg.FW_UPDATE, Msg.BLACKBOX_READ]

/-- A response: its header over its payload (R463). -/
def response (opcode tag status : Nat) (payload : List Nat) : List Nat :=
  leBytes 8 (opcode + tag * 2 ^ 16 + payload.length * 2 ^ 32 + status * 2 ^ 48) ++ payload

def State.respond (s : State) (opcode tag status : Nat) (payload : List Nat) : State :=
  s.setCap fun c => { c with resps := c.resps ++ [response opcode tag status payload] }

/-! ## The mailbox (R462 to R466) -/

/-- A write of MB_DOORBELL: IN submits the request, or is rejected while IN_BUSY or in the cycle of an accept; ACK releases
MB_OUT. -/
def opMbDoorbell (w : Wr) (s0 : State) : State :=
  let off := Reg.MB_DOORBELL.IN.off
  let s := s0.writeAt off w
  if s0.unreachable w.src off || w.src = .frontEnd then s
  else
    let s :=
      if w.starts Reg.MB_DOORBELL.IN then
        if s.on Reg.MB_STATUS.IN_BUSY || w.sameBits Reg.MB_DOORBELL.IN != 0 then s.wr Reg.MB_STATUS.REJECT 1
        else s.wr Reg.MB_STATUS.IN_BUSY 1
      else s
    if w.starts Reg.MB_DOORBELL.ACK then s.wr Reg.MB_STATUS.OUT_VALID 0 else s

def opMbDoorbellIn (w : Wr) (s : State) : State := opMbDoorbell w s
def opMbDoorbellAck (w : Wr) (s : State) : State := opMbDoorbell w s

/-- The request in MB_IN. -/
def reqOf (bs : List Nat) : Req := ⟨leAt bs 0 2, leAt bs 2 2, leAt bs 4 2 % 2 ^ 12, (bs.drop 8).take (leAt bs 4 2 % 2 ^ 12)⟩

/-- The tags of the requests still unanswered. -/
def Captain.openTags (c : Captain) : List Nat := c.reqs.map (·.tag) ++ c.resps.map fun r => leAt r 2 2

/-- What the Captain answers from a request's header alone, if anything (log entry 94). -/
def State.headStatus (s : State) (bs : List Nat) (r : Req) : Option Nat :=
  if s.on Reg.FIT_STATUS.UNFIT && !servedUnfit.contains r.opcode then some Mb.UNFIT
  else
    match catalogue.find? fun m => m.1 = r.opcode with
    | none => some Mb.UNSUPPORTED
    | some m =>
      if s.cap.openTags.contains r.tag then some Mb.DUP_TAG
      else if r.len != m.2.1 then some Mb.BAD_LENGTH
      else if leAt bs 4 4 / 2 ^ 12 != 0 || m.2.2.any (fun k => nth r.payload 0 k != 0) then some Mb.BAD_VALUE
      else if (r.opcode = Msg.FW_UPDATE || r.opcode = Msg.CAL_REFIT) &&
          s.cap.reqs.any (fun q => q.opcode = Msg.FW_UPDATE || q.opcode = Msg.CAL_REFIT) then some Mb.BUSY
      else none

/-- A submitted request is taken from MB_IN: logged, or answered at once from its header. -/
def opMbAccept (s : State) : State :=
  if !s.captainUp || !s.on Reg.MB_STATUS.IN_BUSY || 32 ≤ s.cap.reqs.length + s.cap.resps.length then s
  else
    let r := reqOf s.cap.mbIn
    let status := s.headStatus s.cap.mbIn r
    let s := (s.wr Reg.MB_STATUS.IN_BUSY 0).inc Reg.MB_COUNT.REQUESTS 1
    match status with
    | some st => s.respond r.opcode r.tag st []
    | none => s.setCap fun c => { c with reqs := c.reqs ++ [r] }

/-- The oldest queued response is written into a free MB_OUT, and vector 1 is sent. -/
def opMbResponse (s : State) : State :=
  if !s.captainUp || s.on Reg.MB_STATUS.OUT_VALID then s
  else
    match s.cap.resps with
    | [] => s
    | r :: rest =>
      let s := s.setCap fun c => { c with resps := rest, mbOut := r ++ c.mbOut.drop r.length }
      ((s.wr Reg.MB_STATUS.OUT_VALID 1).inc Reg.MB_COUNT.RESPONSES 1).msixSend 1

/-- A request served: state, STATUS and response payload. -/
abbrev Served := State × Nat × List Nat

/-- The accepted request `idx`, of this opcode, is carried out and its response queued. -/
def State.serve (s : State) (opcode idx : Nat) (f : State → List Nat → Served) : State :=
  match s.cap.reqs[idx]? with
  | none => s
  | some r =>
    if !s.captainUp || r.opcode != opcode then s
    else
      let a := f (s.setCap fun c => { c with reqs := c.reqs.eraseIdx idx }) r.payload
      a.1.respond opcode r.tag a.2.1 a.2.2

/-- A request refused without any effect. -/
def State.no (s : State) (status : Nat) : Served := (s, status, [])

/-! ## Version (R468) -/

/-- The header of a firmware slot. -/
def Captain.slot (c : Captain) (n : Nat) : Option FwHead := if n = 0 then c.slotA else c.slotB

def opGetVersion (idx : Nat) (s : State) : State :=
  s.serve Msg.GET_VERSION idx fun s _ =>
    (s, Mb.OK, leBytes 4 (s.regWord Reg.MB_FW_VERSION.PATCH.off) ++
      leBytes 4 (((s.cap.slot s.cap.booted).map (·.build)).getD 0) ++
      [s.rd Reg.MB_FW_VERSION.SLOT, s.rd Reg.MB_FW_VERSION.FALLBACK, s.cap.svnFused, 0])

/-! ## Contexts (R294 to R296, R441, R469, R470) -/

/-- The lowest FREE context from 1 upwards. -/
def State.freeCtx? (s : State) : Option Nat := (span 1 4095).find? fun c => (s.ctx c).st = .free

/-- A context's scoreboard page at its reset values. -/
def State.resetPage (s : State) (c : Nat) : State :=
  [Reg.SB_DONE_SEQ.SEQ c, Reg.SB_ERR_SEQ.SEQ c, Reg.SB_STATE.ERRORS c, Reg.SB_NOTIFY.TARGET c, Reg.SB_NOTIFY_CTRL.ARM c,
    Reg.SB_NOTIFY_CTRL.VEC c].foldl (fun s f => s.wr f f.reset) s

/-- Real-time contexts that exist, and the sum of their SHARE. -/
def State.rtCtxs (s : State) : List (Nat × Ctx) := s.ctxs.filter fun r => r.2.rt && r.2.st != .free
def State.rtShare (s : State) : Nat := sumNat (s.rtCtxs.map fun r => r.2.share)

def quotasOk (share streams outst : Nat) : Bool := decide (share ≤ 256) && decide (streams ≤ 262144) && decide (1 ≤ outst) && decide (outst ≤ 4096)
def limitOk (ms : Nat) : Bool := decide (1 ≤ ms) && decide (ms ≤ 16777215)

def State.ctxCreate (s : State) (p : List Nat) : Served :=
  let rank := leAt p 0 1
  let rt := leAt p 1 1
  let share := leAt p 2 2
  let streams := leAt p 4 4
  let outst := leAt p 8 2
  let ms := leAt p 12 4
  if rank = 0 || 1 < rt || !quotasOk share streams outst || !limitOk ms then s.no Mb.BAD_VALUE
  else
    match s.freeCtx? with
    | none => s.no Mb.NO_RESOURCE
    | some c =>
      if rt = 1 && (decide (64 ≤ s.rtCtxs.length) || decide (224 < s.rtShare + share)) then s.no Mb.LIMIT
      else
        ((s.resetPage c).setCtx c { Ctx.reset c with st := .active, rt := rt = 1, rank := rank, share := share, streams := streams,
                                                     outstanding := outst, limitMs := ms }, Mb.OK, leBytes 2 c ++ [0, 0])

def opCtxCreate (idx : Nat) (s : State) : State := s.serve Msg.CTX_CREATE idx State.ctxCreate

def State.ctxQuota (s : State) (p : List Nat) : Served :=
  let c := leAt p 0 2
  let share := leAt p 2 2
  let streams := leAt p 4 4
  let outst := leAt p 8 2
  if 4096 ≤ c || !quotasOk share streams outst then s.no Mb.BAD_VALUE
  else if c = 0 || (s.ctx c).st != .active then s.no Mb.STATE
  else if s.shareDenied c share outst then s.no Mb.LIMIT
  else (s.setQuota c share streams outst, Mb.OK, [])

def opCtxSetQuota (idx : Nat) (s : State) : State := s.serve Msg.CTX_SET_QUOTA idx State.ctxQuota

def State.ctxTimeout (s : State) (p : List Nat) : Served :=
  let c := leAt p 0 2
  let ms := leAt p 4 4
  if 4096 ≤ c || !limitOk ms then s.no Mb.BAD_VALUE
  else if (s.ctx c).st = .active || (c = 0 && (s.ctx c).st = .error) then
    (s.modCtx c fun x => { x with limitMs := ms }, Mb.OK, [])
  else s.no Mb.STATE

def opCtxSetTimeout (idx : Nat) (s : State) : State := s.serve Msg.CTX_SET_TIMEOUT idx State.ctxTimeout

/-! ## Queue pairs (R453, R456, R471) -/

/-- The stream-context unit of a port's hub. -/
def hubUnit (port : Nat) : Nat := 16 + port / 2

/-- The lowest FREE queue pair of a port. -/
def State.freeQp? (s : State) (port : Nat) : Option Nat := (span 2 16384).find? fun q => (s.qp? port q).isNone

def State.qpMake (s : State) (p : List Nat) : Served :=
  let c := leAt p 0 2
  let port := leAt p 2 1
  let vlan := leAt p 32 2
  if 4096 ≤ c || 6 ≤ port || 64 ≤ leAt p 3 1 || 2 ^ 24 ≤ leAt p 4 4 || 2 ^ 24 ≤ leAt p 8 4 || 2 ^ 24 ≤ leAt p 12 4 ||
    (vlan != 0xFFFF && 4096 ≤ vlan) then s.no Mb.BAD_VALUE
  else if (s.ctx c).st != .active then s.no Mb.STATE
  else
    match s.freeQp? port with
    | none => s.no Mb.NO_RESOURCE
    | some n =>
      if s.unitFree (hubUnit port) = 0 then s.no Mb.NO_RESOURCE
      else
        let q : Qp := ⟨port, n, c, false, leAt p 3 1, leAt p 4 4, leAt p 8 4, leAt p 12 4, leAt p 16 16, vlan⟩
        let h : Hold := ⟨c, hubUnit port, .qp port n, .held⟩
        ({ s with qps := s.qps ++ [q], se := { s.se with holds := s.se.holds ++ [h] } }, Mb.OK, leBytes 4 n)

def opQpCreate (idx : Nat) (s : State) : State := s.serve Msg.QP_CREATE idx State.qpMake

/-- The queue pair becomes FREE and releases its stream context. -/
def State.freeQp (s : State) (port n : Nat) : State :=
  { s with qps := s.qps.filter fun q => !(q.port = port && q.qpn = n)
           se := { s.se with holds := s.se.holds.filter fun h => h.holder != Holder.qp port n } }

def State.qpDrop (s : State) (p : List Nat) : Served :=
  let port := leAt p 0 1
  let n := leAt p 4 4
  if 6 ≤ port || n < 2 || 16385 < n then s.no Mb.BAD_VALUE
  else
    match s.qp? port n with
    | none => s.no Mb.STATE
    | some q =>
      if s.allOps.any fun o => o.1.ctx = q.owner && o.2.usesQp port n then s.no Mb.STATE
      else (s.freeQp port n, Mb.OK, [])

def opQpFree (idx : Nat) (s : State) : State := s.serve Msg.QP_FREE idx State.qpDrop

/-! ## Images (R472) -/

/-- A range of device memory that software may name (R275, R276). -/
def State.inDevice (s : State) (addr len : Nat) : Bool := decide (addr + len ≤ s.reserve)

/-- The checks of the op that would load an image of this KIND. -/
def State.kindOk (s : State) (kind : Nat) (img : Image) : Bool :=
  s.imageOk (nth [2, 2, 3, 4, 1] 0 kind) img img.segs.length [] && (2 ≤ kind || img.kind = kind)

/-- CRC and TILES of a failed check are free values: the spec states none. -/
def State.imageVerdict (s : State) (p : List Nat) (img : Image) : Served :=
  let kind := leAt p 12 1
  if 5 ≤ kind || !s.inDevice (leAt p 0 8) (leAt p 8 4) then s.no Mb.BAD_VALUE
  else if s.kindOk kind img then (s, Mb.OK, leBytes 4 img.crc ++ leBytes 4 img.segs.length ++ leBytes 4 0xFFFFFFFF)
  else (s.takeFree, Mb.BAD_VALUE, leBytes 8 (Config.freeWord s.free).toNat ++ leBytes 4 img.errOffset)

def opImageCheck (idx : Nat) (img : Image) (s : State) : State :=
  s.serve Msg.IMAGE_CHECK idx fun s p => s.imageVerdict p img

/-! ## Calibration (R473, R474) -/

def State.calConfig (s : State) (p : List Nat) : Served :=
  let stage := leAt p 0 8
  let log := leAt p 8 8
  let log2 := leAt p 16 1
  let owner := leAt p 17 1
  let en := leAt p 18 1
  if 2 ^ 48 ≤ stage || stage % 2 ^ 13 != 0 || 2 ^ 48 ≤ log || log % 2 ^ 7 != 0 || log2 < 4 || 24 < log2 || 1 < owner || 1 < en then
    s.no Mb.BAD_VALUE
  else if en = 1 && s.on Reg.POLICY_CTRL.CAL_EN &&
      (stage != s.rd Reg.CAL_STAGE_BASE.ADDR || log != s.rd Reg.CAL_LOG_BASE.ADDR || log2 != s.rd Reg.CAL_LOG_SIZE.LOG2) then
    s.no Mb.STATE
  else
    (((((s.wr Reg.CAL_STAGE_BASE.ADDR stage).wr Reg.CAL_LOG_BASE.ADDR log).wr Reg.CAL_LOG_SIZE.LOG2 log2).wr
      Reg.POLICY_CTRL.CAL_OWNER owner).wr Reg.POLICY_CTRL.CAL_EN en, Mb.OK, [])

def opCalConfig (idx : Nat) (s : State) : State := s.serve Msg.CAL_CONFIG idx State.calConfig

/-- The unreleased log entries: number and bytes, oldest first. -/
def State.logEntries (s : State) : List (Nat × List Nat) :=
  let tail := s.rd Reg.CAL_LOG_TAIL.TAIL
  (List.range ((s.rd Reg.CAL_LOG_HEAD.HEAD + 2 ^ 32 - tail) % 2 ^ 32)).map fun k =>
    let n := (tail + k) % 2 ^ 32
    (n, s.hbm.rdBytes (s.rd Reg.CAL_LOG_BASE.ADDR + 128 * (n % calLogSize s)) 128)

/-- The key of an entry, compared as (step, tensor, patch). -/
def logKey (bs : List Nat) : Nat := leAt bs 0 8 * 2 ^ 64 + leAt bs 8 4 * 2 ^ 32 + leAt bs 12 4

/-- Entries in key order, the last entry of each key. -/
def keepLast (es : List (List Nat)) : List (List Nat) :=
  (es.foldl (fun (m : List (Nat × List Nat)) e => mapSet m (logKey e) e) []).map (·.2)

/-- The ensemble that policy tiles score on. -/
def State.ensemble (s : State) : List Image :=
  (s.tiles.filterMap fun t => if t.2.duty = 2 then t.2.cfg.bind (mapGet? s.configs) else none).eraseDups

def State.calRefit (s : State) (p : List Nat) : Served :=
  let gen := leAt p 20 1
  let out := leAt p 24 8
  if !s.on Reg.POLICY_CTRL.CAL_OWNER then s.no Mb.STATE
  else if 3 < gen || gen = s.rd Reg.POLICY_CTRL.ACTIVE_GEN then s.no Mb.BAD_VALUE
  else
    let read := s.logEntries.filter fun e => decide (leAt p 0 8 ≤ leAt e.2 0 8) && decide (leAt e.2 0 8 ≤ leAt p 8 8)
    let job : Config.Refit := ⟨keepLast (read.map (·.2)), s.ensemble, leAt p 16 4, gen⟩
    let len := Config.refitLength job
    if leAt p 32 4 < len || !s.inDevice out len then s.no Mb.BAD_VALUE
    else
      let bytes := (List.range len).map fun i => (Config.refitByte job i).toNat
      let s := s.write ⟨false, out⟩ bytes
      let s := match read.getLast? with
        | some e => s.wr Reg.CAL_LOG_TAIL.TAIL (e.1 + 1)
        | none => s
      (s, Mb.OK, leBytes 4 len ++ leBytes 4 (Config.refitEntries job) ++ leBytes 4 (crc32 bytes) ++ [0, 0, 0, 0])

def opCalRefit (idx : Nat) (s : State) : State := s.serve Msg.CAL_REFIT idx State.calRefit

/-! ## Firmware (R475 to R477) -/

/-- The checks of R476 on an image. -/
def Captain.accepts (c : Captain) (h : FwHead) : Bool :=
  h.magicOk && h.hdrVersion = 1 && decide (h.keyIndex < 4) && h.keyOk && !c.revoked.contains h.keyIndex && h.sigOk && h.bodyOk &&
  decide (h.svn < 64) && decide (c.svnFused ≤ h.svn) && decide (1 ≤ h.length) && decide (h.length ≤ 6291456)

def State.fwStore (s : State) (p : List Nat) (h : FwHead) : Served :=
  if !s.inDevice (leAt p 0 8) (leAt p 8 4) then s.no Mb.BAD_VALUE
  else if !s.cap.accepts h then s.no Mb.AUTH
  else
    let n := 1 - s.cap.booted
    (s.setCap fun c => if n = 0 then { c with slotA := some h, prefer := 0 } else { c with slotB := some h, prefer := 1 }, Mb.OK,
      [n, 0, 0, 0])

def opFwUpdate (idx : Nat) (head : FwHead) (s : State) : State := s.serve Msg.FW_UPDATE idx fun s p => s.fwStore p head

def State.svnCommit (s : State) (p : List Nat) : Served :=
  let v := leAt p 0 1
  if s.rd Reg.MB_FW_VERSION.SVN < v || v < s.cap.svnFused then s.no Mb.BAD_VALUE
  else (s.setCap fun c => { c with svnFused := v }, Mb.OK, [])

def opFwSvnCommit (idx : Nat) (s : State) : State := s.serve Msg.FW_SVN_COMMIT idx State.svnCommit

/-! ## The black box (R468, R513) -/

def State.boxRead (s : State) (p : List Nat) : Served :=
  let off := leAt p 0 4
  let n := leAt p 4 4
  if n = 0 || 4080 < n || boxSize < off + n then s.no Mb.BAD_VALUE else (s, Mb.OK, s.box.read off n)

def opBlackboxRead (idx : Nat) (s : State) : State := s.serve Msg.BLACKBOX_READ idx State.boxRead

def execMbDoorbellIn (w : Wr) (s : State) : Out := .next (opMbDoorbellIn w s)
def execMbAccept (s : State) : Out := .next (opMbAccept s)
def execMbResponse (s : State) : Out := .next (opMbResponse s)
def execMbDoorbellAck (w : Wr) (s : State) : Out := .next (opMbDoorbellAck w s)
def execGetVersion (idx : Nat) (s : State) : Out := .next (opGetVersion idx s)
def execCtxCreate (idx : Nat) (s : State) : Out := .next (opCtxCreate idx s)
def execCtxSetQuota (idx : Nat) (s : State) : Out := .next (opCtxSetQuota idx s)
def execCtxSetTimeout (idx : Nat) (s : State) : Out := .next (opCtxSetTimeout idx s)
def execQpCreate (idx : Nat) (s : State) : Out := .next (opQpCreate idx s)
def execQpFree (idx : Nat) (s : State) : Out := .next (opQpFree idx s)
def execImageCheck (idx : Nat) (img : Image) (s : State) : Out := .next (opImageCheck idx img s)
def execCalConfig (idx : Nat) (s : State) : Out := .next (opCalConfig idx s)
def execCalRefit (idx : Nat) (s : State) : Out := .next (opCalRefit idx s)
def execFwUpdate (idx : Nat) (head : FwHead) (s : State) : Out := .next (opFwUpdate idx head s)
def execFwSvnCommit (idx : Nat) (s : State) : Out := .next (opFwSvnCommit idx s)
def execBlackboxRead (idx : Nat) (s : State) : Out := .next (opBlackboxRead idx s)

end Sys2Proof.Machine
end

