-- ==== Sys2Proof/Machine/Referee.lean ====
section
/-! DEFINITION. The Referee: grants, clamps, the power monitor and the firmware watchdog (R478 to R491). -/

namespace Sys2Proof.Machine

/-! ## Outbound grants (R409, R410, R457, R482) -/

/-- A granted link port of a dimension larger than 1 leaves OFF. -/
def State.grantLink (s : State) (p : Nat) : State :=
  if bitOf (s.rd Reg.REF_GRANT.LINK) p && s.portState p = Port.OFF && decide (1 < s.dimSize (p % 6 / 2)) then
    s.wr (Reg.LINK_PORT.STATE p) Port.TRAINING
  else s

/-- A link port whose grant is withdrawn goes OFF; its flits are sent again elsewhere. -/
def State.withdrawLink (s : State) (p : Nat) : State :=
  if s.portState p = Port.UP then (s.wr (Reg.LINK_PORT.STATE p) Port.OFF).reinject p else s.wr (Reg.LINK_PORT.STATE p) Port.OFF

def State.grantEth (s : State) (p : Nat) : State :=
  if bitOf (s.rd Reg.REF_GRANT.ETH) p && s.ethState p = Port.OFF then s.wr (Reg.ETH_PORT.STATE p) Port.TRAINING else s

def State.withdrawEth (s : State) (p : Nat) : State :=
  if s.ethState p = Port.UP then (s.wr (Reg.ETH_PORT.STATE p) Port.OFF).portQpsError p else s.wr (Reg.ETH_PORT.STATE p) Port.OFF

/-- Bits of a mask of `n` ports that are set in `a` and not in `b`. -/
def lostBits (n a b : Nat) : List Nat := (List.range n).filter fun p => bitOf a p && !bitOf b p

/-- A write of REF_GRANT: ports newly granted train, ports whose grant is withdrawn go OFF. -/
def opRefGrantWrite (w : Wr) (s0 : State) : State :=
  let s := s0.writeAt Reg.REF_GRANT.LINK.off w
  let l0 := s0.rd Reg.REF_GRANT.LINK
  let l1 := s.rd Reg.REF_GRANT.LINK
  let e0 := s0.rd Reg.REF_GRANT.ETH
  let e1 := s.rd Reg.REF_GRANT.ETH
  let s := (lostBits 18 l0 l1).foldl State.withdrawLink s
  let s := (lostBits 6 e0 e1).foldl State.withdrawEth s
  let s := (lostBits 18 l1 l0).foldl State.grantLink s
  (lostBits 6 e1 e0).foldl State.grantEth s

/-! ## Clamps (R484) -/

/-- P_MAX_W as a host write leaves it, whether the write is dropped, and whether it was floored. -/
def clampPower (old v : Nat) : Nat × Bool × Bool :=
  if old < v || 3200 < v then (old, true, false) else if v < 1150 then (1150, false, true) else (v, false, false)

/-- T_MAX_C as a host write leaves it, and whether the write is dropped. -/
def clampTemp (old v : Nat) : Nat × Bool := if old < v || 105 < v then (old, true) else if v < 85 then (85, false) else (v, false)

/-- A write of REF_CLAMP: clamps are lowered only. -/
def opRefClampWrite (w : Wr) (s : State) : State :=
  let off := Reg.REF_CLAMP.P_MAX_W.off
  if s.unreachable w.src off || w.src != .host || !w.covers Reg.REF_CLAMP.P_MAX_W then s.writeAt off w
  else
    let p := clampPower (s.rd Reg.REF_CLAMP.P_MAX_W) (w.field Reg.REF_CLAMP.P_MAX_W)
    let t := clampTemp (s.rd Reg.REF_CLAMP.T_MAX_C) (w.field Reg.REF_CLAMP.T_MAX_C)
    let s := s.fieldWrite w Reg.REF_CLAMP.P_FLOORED
    let s := if p.2.2 then s.wr Reg.REF_CLAMP.P_FLOORED 1 else s
    let s := (s.wr Reg.REF_CLAMP.P_MAX_W p.1).wr Reg.REF_CLAMP.T_MAX_C t.1
    if p.2.1 || t.2 then s.lockViolation w.src.code (w.place off) w.dropped else s

/-! ## The power monitor (R483) -/

/-- Subsystem 15 and the Referee measure while the module is powered, out of reset and no whistle sounds. -/
def State.watching (s : State) : Bool := s.pins.pwrgd && s.pins.railsUp && s.pins.perstN && !s.stopped

/-- The sum of the samples of the last 1 ms; none before 1 ms of samples stands. -/
def Power.sum? (p : Power) : Option Nat := if p.samples.length = 100 then some (sumNat p.samples) else none

def State.setPwr (s : State) (f : Power → Power) : State := { s with pwr := f s.pwr }

/-- The compute islands of the dies in service. -/
def State.computeIslands (s : State) : List Nat :=
  (List.range 16).flatMap fun d => if s.dieFenced d then [] else span (islandId d 0) 20

/-- A compute island that runs, or would run but for a hold. -/
def State.clocked (s : State) (n : Nat) : Bool := s.islSt n != Isl.GATED && s.islSt n != Isl.UNGATING

/-- The clamp engages: every compute island is forced to floor. -/
def State.engageClamp (s : State) : State :=
  let s := (s.setPwr fun p => { p with clamp := true, clampOver := 0 }).wr Reg.REF_CLAMP.PWR_ACTIVE 1
  let s := (s.computeIslands.filter s.clocked).foldl (fun s n => s.wr (Reg.ISL_STATE.FREQ_MHZ n) 1200) s
  s.note Ev.REF_CLAMP 14 refIsland none []

/-- A sample of module input power; both input monitors read it (log entry 98). -/
def opRefPowerSample (watts : Nat) (s : State) : State :=
  if !s.watching then s
  else
    let s := s.setPwr fun p => { p with samples := (watts :: p.samples).take 100 }
    match s.pwr.sum? with
    | none => s
    | some m =>
      let max := s.rd Reg.REF_CLAMP.P_MAX_W
      if !s.pwr.clamp then (if max * 100 < m then s.engageClamp else s)
      else if m < 95 * max then (s.setPwr fun p => { p with clamp := false, clampOver := 0 }).wr Reg.REF_CLAMP.PWR_ACTIVE 0
      else if max * 100 < m then
        let s := s.setPwr fun p => { p with clampOver := p.clampOver + 1 }
        if s.pwr.clampOver = 1000 then s.faultD Ev.REF_POWER 14 refIsland none [] else s
      else s.setPwr fun p => { p with clampOver := 0 }

/-! ## The watchdog (R486, R490) -/

def Wdog.RUNNING := 0
def Wdog.RESTARTING := 1
def State.wdog (s : State) : Nat := s.rd Reg.REF_WDOG.STATE

/-- A write of REF_WDOG that kicks. The Captain's reaches KICK alone (log entry 28). -/
def opWdogKick (w : Wr) (s : State) : State :=
  let off := Reg.REF_WDOG.KICK.off
  if w.src != .captain then s.writeAt off w
  else if !w.starts Reg.REF_WDOG.KICK then s
  else if s.wdog = Wdog.RUNNING then s.setCap fun c => { c with kickAt := s.now }
  else s.lockViolation w.src.code (w.place off) w.dropped

/-- PERIOD_MS have passed without a kick. -/
def State.wdogDue (s : State) : Bool := decide (s.cap.kickAt + s.rd Reg.REF_WDOG.PERIOD_MS * 1000000 ≤ s.now)

/-- The period elapses: the Captain is restarted; within 10 s of the last restart the whistle sounds. -/
def opWdogExpiry (s : State) : State :=
  if !s.watching || s.wdog != Wdog.RUNNING || !s.on Reg.MB_STATUS.FW_READY || !s.wdogDue then s
  else
    let recent := match s.cap.lastRestart with
      | some t => decide (s.now < t + 10000000000)
      | none => false
    let s := (s.inc Reg.REF_WDOG.EXPIRIES 1).wr Reg.REF_WDOG.STATE Wdog.RESTARTING
    let s := ((s.wr Reg.MB_STATUS.FW_READY 0).wr Reg.MB_STATUS.FW_RESTARTED 1).wr Reg.REF_STATUS.WDOG_SEEN 1
    if recent then s.faultD Ev.REF_WDOG_FAIL 14 refIsland none []
    else s.raise Ev.CAPTAIN_WDOG 4 14 refIsland none []

/-- The restart from the slot booted last ends: the image passes R476, or the whistle sounds. -/
def opCaptainRestartDone (ok : Bool) (s : State) : State :=
  if !s.watching || s.wdog != Wdog.RESTARTING || !(s.stage = Stage.READY || s.stage = Stage.UNFIT) then s
  else
    let pass := ok && (match s.cap.slot s.cap.booted with
      | some h => s.cap.accepts h
      | none => false)
    if pass then
      ((s.wr Reg.REF_WDOG.STATE Wdog.RUNNING).wr Reg.MB_STATUS.FW_READY 1).setCap fun c =>
        { c with lastRestart := some s.now, kickAt := s.now }
    else s.faultD Ev.REF_WDOG_FAIL 14 refIsland none []

def execRefGrantWrite (w : Wr) (s : State) : Out := .next (opRefGrantWrite w s)
def execRefClampWrite (w : Wr) (s : State) : Out := .next (opRefClampWrite w s)
def execRefPowerSample (watts : Nat) (s : State) : Out := .next (opRefPowerSample watts s)
def execWdogKick (w : Wr) (s : State) : Out := .next (opWdogKick w s)
def execWdogExpiry (s : State) : Out := .next (opWdogExpiry s)
def execCaptainRestartDone (ok : Bool) (s : State) : Out := .next (opCaptainRestartDone ok s)

end Sys2Proof.Machine
end

