-- ==== Sys2Proof/Machine/Faults.lean ====
section
/-! DEFINITION. Windows, alarms, traces, the whistle, the black box, and the whole-device reset (R36, R38, R492 to R522). -/

namespace Sys2Proof.Machine

def State.setEv (s : State) (f : EvState → EvState) : State := { s with ev := f s.ev }

/-! ## Windows (R38, R480, R509) -/

/-- A rate limiter at the end of its window: what it becomes, and what it posts. -/
def Rate.lapse (r : Rate) (now : Nat) : Rate × Option Event :=
  if r.isOpen && decide (r.till ≤ now) then (⟨r.pend.isSome, none, now + rateWindow⟩, r.pend) else (r, none)

def State.postOpt (s : State) (e : Option Event) : State :=
  match e with
  | some e => s.post e
  | none => s

def opRateLimitWindowEnd (deny : Bool) (s : State) : State :=
  if deny then
    let r := s.ev.deny.lapse s.now
    (s.setEv fun v => { v with deny := r.1 }).postOpt r.2
  else
    let r := s.ev.lock.lapse s.now
    (s.setEv fun v => { v with lock := r.1 }).postOpt r.2

/-- The window of a key ends: its pending record is posted and a new window opens, or the key's window closes. -/
def opCoalesceWindowEnd (typ src : Nat) (hasCtx : Bool) (ctx : Nat) (s : State) : State :=
  let mine := fun (w : Win) => w.typ = typ && w.src = src && w.hasCtx = hasCtx && w.ctx = ctx
  match s.ev.wins.find? mine with
  | none => s
  | some w =>
    if s.now < w.till then s
    else match w.pend with
    | none => s.setEv fun v => { v with wins := v.wins.filter fun x => !mine x }
    | some e =>
      (s.setEv fun v => { v with
        wins := v.wins.map fun x => if mine x then { x with pend := none, till := s.windowEnd } else x }).post e

/-! ## The hall path (R510, R511, R555) -/

/-- The oldest alarm that waits for the hall has been sent. -/
def markHall : List Alarm → List Alarm
  | [] => []
  | a :: rest => if a.hall then a :: markHall rest else { a with hall := true } :: rest

/-- The oldest alarm not yet sent leaves with the number that still wait, as often as ALARM_PER_S allows (R487, log entry 131). -/
def opHallAlarmSend (s : State) : State :=
  match s.ev.alarms.find? fun a => !a.hall with
  | none => s
  | some a =>
    if !s.on Reg.MB_STATUS.FW_READY || decide (s.now < s.ev.hallNext) then s
    else
      let s := s.setEv fun v => { v with
        alarms := markHall v.alarms, hallNext := s.now + 1000000000 / s.rd Reg.REF_RATE.ALARM_PER_S }
      (s.send (.hall (a.ev.bytes 0) (count (fun (x : Alarm) => !x.hall) s.ev.alarms))).dropAlarms

/-- A microsecond in which an alarm waited for the ceiling of REF_RATE is counted (R487). -/
def State.throttle (s : State) : State :=
  if s.now % 1000 = 0 && decide (s.now < s.ev.hallNext) && s.on Reg.MB_STATUS.FW_READY && s.ev.alarms.any (fun a => !a.hall) then
    s.inc Reg.REF_COUNT.THROTTLE_US 1
  else s

/-! ## The trace ring (R512, R520) -/

/-- A write of FLT_TRC_CTRL: an enable samples the ring and starts it empty. -/
def opTraceEnable (w : Wr) (s0 : State) : State :=
  let s := s0.writeAt Reg.FLT_TRC_CTRL.EN.off w
  if s.on Reg.FLT_TRC_CTRL.EN && !s0.on Reg.FLT_TRC_CTRL.EN then
    ((s.setEv fun v => { v with trcBase := s.rd Reg.FLT_TRC_BASE.ADDR, trcSizeLog2 := s.rd Reg.FLT_TRC_CTRL.SIZE_LOG2 }).wr
      Reg.FLT_TRC_HEAD.HEAD 0).wr Reg.FLT_TRC_TAIL.TAIL 0
  else s

/-! ## The whistle (R494 to R502) -/

/-- The class D events of R495 and R548. -/
def classD : List Nat :=
  [Ev.RESIDUE_FAIL, Ev.NET_FAIL, Ev.STACK_FAIL, Ev.OP_TIMEOUT, Ev.QUIET_TIMEOUT, Ev.REF_WDOG_FAIL, Ev.REF_POWER, Ev.REF_THERMAL,
   Ev.HUB_FAIL, Ev.HBM_THERMAL]

/-- The failed part that a class D fault names, recorded for the next boot (R506). -/
def State.recordCause (s : State) (f : FaultIn) : State :=
  if f.typ = Ev.STACK_FAIL then s.recordFail 3 f.typ (leAt f.payload 0 1) 0
  else if f.typ = Ev.HUB_FAIL then s.recordFail 7 f.typ (16 + leAt f.payload 0 1) 0
  else if f.typ = Ev.NET_FAIL && leAt f.payload 0 2 < 512 then s.recordFail 2 f.typ (leAt f.payload 0 2 / 32) 0
  else s

/-- The island that a class D fault carries as its source: that of the hub whose stack it names (R12), of the hop it names
(R565), of the front end or of the Referee; any other where the check sits. -/
def FaultIn.source (f : FaultIn) : Nat :=
  if f.typ = Ev.STACK_FAIL || f.typ = Ev.HBM_THERMAL then stackIsland (leAt f.payload 0 1)
  else if f.typ = Ev.NET_FAIL then leAt f.payload 0 2
  else if f.typ = Ev.OP_TIMEOUT || f.typ = Ev.QUIET_TIMEOUT then feIsland
  else if f.typ = Ev.REF_WDOG_FAIL || f.typ = Ev.REF_POWER || f.typ = Ev.REF_THERMAL then refIsland
  else f.src

/-- A class D fault found by a check outside every modelled command. -/
def opWhistle (cause : FaultIn) (s : State) : State :=
  if !s.pins.pwrgd || !classD.contains cause.typ then s
  else (s.recordCause cause).faultD cause.typ (typSubsys cause.typ cause.duty) cause.source none
    ((cause.payload.take 32).map fun b => (1, b))

/-! ## The whole-device reset (R36, R365, R441, R465, R500 to R502) -/

/-- The registers that a whole-device reset keeps beside FLT_WHISTLE_DONE: the retained step state, the record of resets
and the straps. -/
def keptFlds : List Fld :=
  [Reg.SC_STEP.COUNT, Reg.SC_SEED_LO.SEED, Reg.SC_SEED_HI.SEED, Reg.SC_STATUS.PHASE, Reg.SC_STATUS.COMMIT_SLOT,
   Reg.SC_STATUS.STEP_FAULT, Reg.SC_CTRL.TRAIN_CTX, Reg.FLT_STATUS.CAUSE, Reg.FLT_STATUS.D_TYPE, Reg.FLT_STATUS.RESETS,
   Reg.HI_STATUS.SPEED, Reg.HI_STATUS.WIDTH, Reg.FLT_WHISTLE_TIME.TIME, Reg.FLT_CLASS_D.COUNT, Reg.FLT_ALARM.COUNT, Reg.STRAP_STATUS.ADDR, Reg.STRAP_STATUS.REFCLK_SEL]

/-- A register entry that is kept; a port in DOWN stays DOWN (R409, R457). -/
def keptReg (e : Nat × Nat) : Bool :=
  keptFlds.any (fun f => f.key = e.1) ||
  (decide ((Reg.FLT_WHISTLE_DONE.SEQ 0).key ≤ e.1) && decide (e.1 ≤ (Reg.FLT_WHISTLE_DONE.SEQ 4095).key)) ||
  (e.2 = Port.DOWN && ((List.range 18).any (fun p => (Reg.LINK_PORT.STATE p).key = e.1) ||
    (List.range 6).any fun p => (Reg.ETH_PORT.STATE p).key = e.1))

/-- What a step caught by the reset becomes (R382, R384). -/
def phaseAfter (ph : Nat) : Nat := if ph = Phase.VOTING || ph = Phase.PREPARED || ph = Phase.PIN_WAIT then Phase.IN_DOUBT else ph

/-- Everything not kept at its reset value, and what ops in flight write unspecified (R504); RETAINED reads 1, the Captain is RESTARTING, CAUSE names the reset unless a
whistle's sequence goes on. -/
def State.deviceReset (s0 : State) (cause : Nat) : State :=
  let s := s0.scramble (s0.openOps.flatMap s0.openRegions)
  let t : State :=
    { State.reset with
        pending := s.pending, now := s.now, free := s.free, regs := s.regs.filter keptReg, hbm := s.hbm, poison := s.poison
        hostMem := s.hostMem, fit := s.fit, bootSeq := s.bootSeq, fails := s.fails, failsKept := s.failsKept, box := s.box
        pins := s.pins, sent := s.sent
        cap := { s.cap with reqs := [], resps := [], mbIn := [], mbOut := [], lastRestart := none, kickAt := s.now }
        ev := { EvState.reset with trace := s.ev.trace, capture := s.ev.capture, faultLog := s.ev.faultLog, counts := s.ev.counts,
                                   alarms := s.ev.alarms, hallNext := s.ev.hallNext }
        sc := { StepState.reset with half := s.sc.half, reserve := s.sc.reserve, jseq := s.sc.jseq } }
  let t := (t.wr Reg.SC_STATUS.PHASE (phaseAfter s.phase)).wr Reg.SC_STATUS.RETAINED 1
  let t := (t.wr Reg.FLT_STATUS.CAUSE (if s.pins.whistle then 1 else cause)).inc Reg.FLT_STATUS.RESETS 1
  t.wr Reg.REF_WDOG.STATE Wdog.RESTARTING

/-- Step 4 of R500 after a whistle, and the reset boot's start. -/
def opWholeDeviceReset (s : State) : State := if s.stopped then (s.deviceReset 1).setStage Stage.ROM else s

/-! ## The black box (R497, R500 step 6, R513, R514) -/

/-- PART_FAILED of a failure entered in the list, from the hub island of the stack it is about, else from the Referee's island
(R12, R497, log entry 46). -/
def State.partFailed (s : State) (f : FailRec) : State :=
  s.note Ev.PART_FAILED 15 (if f.kind = 3 || f.kind = 4 then stackIsland f.id else refIsland) none ((f.bytes.take 24).map fun b => (1, b))

/-- The Captain stores what the retention buffer holds; WHISTLE_N is released. -/
def opBlackboxStore (s : State) : State :=
  if !s.captainUp then s
  else
    let left := s.fails.drop (1024 - s.box.failList.length)
    let news := s.fails
    let s := { s with box := s.storeBox, fails := [], failsKept := s.failsKept ++ left, pins := { s.pins with whistle := false } }
    let s := s.setEv fun v => { v with faultLog := [], capture := [], counts := [0, 0, 0, 0] }
    news.foldl State.partFailed s

def execRateLimitWindowEnd (deny : Bool) (s : State) : Out := .next (opRateLimitWindowEnd deny s)
def execCoalesceWindowEnd (typ src : Nat) (hasCtx : Bool) (ctx : Nat) (s : State) : Out :=
  .next (opCoalesceWindowEnd typ src hasCtx ctx s)
def execHallAlarmSend (s : State) : Out := .next (opHallAlarmSend s)
def execTraceEnable (w : Wr) (s : State) : Out := .next (opTraceEnable w s)
def execWhistle (cause : FaultIn) (s : State) : Out := .next (opWhistle cause s)
def execWholeDeviceReset (s : State) : Out := .next (opWholeDeviceReset s)
def execBlackboxStore (s : State) : Out := .next (opBlackboxStore s)

end Sys2Proof.Machine
end

