-- ==== Sys2Proof/Machine/Power.lean ====
section
/-! DEFINITION. Clocks, holds, gating and live calibration (R483, R485, R523 to R548). -/

namespace Sys2Proof.Machine

/-! ## Causes and holds (R534, R543) -/

def Cause.REFEREE := 0
def Cause.NBR_VOLT := 1
def Cause.NBR_TEMP := 2
def Cause.DITHER := 3
def Cause.MARGIN := 4

/-- A hold cause of an island arises or clears. -/
def State.setCause (s : State) (n cause : Nat) (on : Bool) : State :=
  let st := s.islSt n
  if st = Isl.GATED then s
  else
    let h := s.rd (Reg.ISL_STATE.HOLD n)
    let h := if bitOf h cause = on then h else if on then h + 2 ^ cause else h - 2 ^ cause
    let s := s.wr (Reg.ISL_STATE.HOLD n) h
    if st = Isl.RUN && h != 0 then s.wr (Reg.ISL_STATE.STATE n) Isl.HELD
    else if st = Isl.HELD && h = 0 then s.wr (Reg.ISL_STATE.STATE n) Isl.RUN
    else s

def State.hasCause (s : State) (n cause : Nat) : Bool := bitOf (s.rd (Reg.ISL_STATE.HOLD n)) cause

/-- The Referee's HOLD_ACTIVE shows whether any island is held under R485. -/
def State.showHold (s : State) : State :=
  s.wr Reg.REF_CLAMP.HOLD_ACTIVE (b2n ((List.range 640).any fun n => s.hasCause n Cause.REFEREE))

/-! ## Sensors (R485, R532 to R537) -/

/-- Samples of 1 µs in 10 ms. -/
def deviant : Nat := 10000

/-- Differs by more than 20 °C from each of the others. -/
def strays (t : Nat) (others : List Nat) : Bool := !others.isEmpty && others.all fun o => decide (o + 20 < t) || decide (t + 20 < o)

/-- One junction sensor of an island judged against the others in use. -/
def State.sensor (s : State) (n k : Nat) (temps : List Nat) : State :=
  let used := (List.range temps.length).filter fun j => j != k && !s.pwr.excluded.contains (n, j)
  if s.pwr.excluded.contains (n, k) then s
  else if strays (nth temps 0 k) (used.map (nth temps 0)) then
    let c := match s.pwr.suspect.find? fun e => e.1 = n && e.2.1 = k with
      | some e => e.2.2 + 1
      | none => 1
    let rest := s.pwr.suspect.filter fun e => !(e.1 = n && e.2.1 = k)
    if deviant ≤ c then
      (s.setPwr fun p => { p with suspect := rest, excluded := (n, k) :: p.excluded }).note Ev.SENSOR_FAIL 15 n none []
    else s.setPwr fun p => { p with suspect := (n, k, c) :: rest }
  else s.setPwr fun p => { p with suspect := p.suspect.filter fun e => !(e.1 = n && e.2.1 = k) }

/-- The reported junction: the highest of the sensors in use, 110 °C where none is left. -/
def State.junction (s : State) (n : Nat) (temps : List Nat) : Nat :=
  let used := (List.range temps.length).filter fun j => !s.pwr.excluded.contains (n, j)
  if used.isEmpty then 110 else used.foldl (fun m j => max m (nth temps 0 j)) 0

/-- An island's junction against T_MAX_C and 110 °C (R485). -/
def State.refJudge (s : State) (n t : Nat) : State :=
  let tmax := s.rd Reg.REF_CLAMP.T_MAX_C
  let s :=
    if tmax ≤ t && !s.hasCause n Cause.REFEREE && s.islSt n != Isl.GATED then
      (s.setCause n Cause.REFEREE true).note Ev.REF_HOLD 14 n none []
    else if t + 5 ≤ tmax && s.hasCause n Cause.REFEREE then s.setCause n Cause.REFEREE false
    else s
  if 110 ≤ t then s.faultD Ev.REF_THERMAL 14 refIsland none [] else s

/-- An island that has a reading: named, and neither gated nor of a fenced die. -/
def State.sensed (s : State) (n : Nat) : Bool :=
  islandExists n && !(decide (n < 512) && s.dieFenced (n / 32)) && s.islSt n != Isl.GATED

def State.takeReading (s : State) (r : IslandReading) : State :=
  if !s.sensed r.island then s
  else
    let s := (List.range r.temps.length).foldl (fun s k => s.sensor r.island k r.temps) s
    let t := s.junction r.island r.temps
    let s := (s.wr (Reg.ISL_STATE.VOLT_MV r.island) r.mv).wr (Reg.ISL_STATE.TEMP_C r.island) (min t 127)
    s.refJudge r.island t

/-- The island that a breach of a pair holds: of a pair with one compute island that one, else the one named (R533). -/
def breachIsland (a b named : Nat) : Nat := if a < 512 && 512 ≤ b then a else if b < 512 && 512 ≤ a then b else named

/-- One bound of a pair: a difference above `hi` holds the named island, one at most `lo` lets it go. -/
def State.pairBound (s : State) (a b va vb hi lo : Nat) (volt : Bool) : State :=
  let diff := max va vb - min va vb
  let cause := if volt then Cause.NBR_VOLT else Cause.NBR_TEMP
  let mine := fun (e : Nat × Nat × Bool) => e.2.2 = volt && ((e.1 = a && e.2.1 = b) || (e.1 = b && e.2.1 = a))
  match s.pwr.nbr.find? mine with
  | some e =>
    if diff ≤ lo then
      let s := s.setPwr fun p => { p with nbr := p.nbr.filter fun x => !mine x }
      if s.pwr.nbr.any fun x => x.1 = e.1 && x.2.2 = volt then s else s.setCause e.1 cause false
    else s
  | none =>
    if hi < diff then
      let named := if volt then (if va < vb then a else b) else (if va < vb then b else a)
      let x := breachIsland a b named
      let y := if x = a then b else a
      let s := (s.setPwr fun p => { p with nbr := p.nbr ++ [(x, y, volt)] }).setCause x cause true
      (s.inc Reg.PWR_COUNT.NBR_HOLDS 1).note Ev.NBR_HOLD 15 x none [(2, x), (2, y), (2, diff)]
    else s

/-- Both bounds of a pair of neighbours (R531 to R533). -/
def State.pairJudge (s : State) (p : Nat × Nat) : State :=
  if p.1 = p.2 || !s.sensed p.1 || !s.sensed p.2 then s
  else
    let v := fun n => s.rd (Reg.ISL_STATE.VOLT_MV n)
    let t := fun n => s.rd (Reg.ISL_STATE.TEMP_C n)
    (s.pairBound p.1 p.2 (v p.1) (v p.2) 150 120 true).pairBound p.1 p.2 (t p.1) (t p.2) 30 25 false

/-- A stack's temperature (R536). -/
def State.takeStack (s : State) (e : Nat × Nat) : State :=
  if 12 ≤ e.1 || !s.stackList.contains e.1 then s
  else
    let s := s.wr (Reg.MEM_HBM_TEMP.TEMP_C e.1) (min e.2 127)
    /- the refresh rate in force (R287) -/
    let hot := s.rd Reg.MEM_REFRESH.HOT
    let s := s.wr Reg.MEM_REFRESH.HOT (hot - bitsOf hot e.1 1 * 2 ^ e.1 + (if 85 ≤ e.2 then 2 ^ e.1 else 0))
    let s :=
      if 95 ≤ e.2 && !s.on (Reg.MEM_HBM_TEMP.HOT e.1) then
        (s.wr (Reg.MEM_HBM_TEMP.HOT e.1) 1).note Ev.HBM_HOT 15 (stackIsland e.1) none []
      else if e.2 < 90 then s.wr (Reg.MEM_HBM_TEMP.HOT e.1) 0
      else s
    if 105 ≤ e.2 then s.faultD Ev.HBM_THERMAL 15 (stackIsland e.1) none [] else s

/-- The islands of its own die that a compute island's crossings join: those beside it in the die's four bands of five (R10). -/
def meshNeighbours (n : Nat) : List Nat :=
  let i := n % 32
  if 512 ≤ n then []
  else (if i % 5 = 0 then [] else [n - 1]) ++ (if i % 5 = 4 then [] else [n + 1]) ++ (if i < 5 then [] else [n - 5]) ++
    (if 15 ≤ i then [] else [n + 5])

/-- Two islands that a crossing may join beside those of one compute die: of one hub or of the control die, or of two sites that
an enabled bridge joins. At which islands the bridges end, and which islands of a hub touch, the spec does not say (R16). -/
def State.mayJoin (s : State) (p : Nat × Nat) : Bool :=
  (p.1 / 32 = p.2 / 32 && decide (512 ≤ p.1)) || s.bridged (p.1 / 32) (p.2 / 32)

/-- The readings of one microsecond, the pairs that crossings join across dies, and the stacks' temperatures. -/
def opSensorSample (readings : List IslandReading) (neighbours stackTemps : List (Nat × Nat)) (s : State) : State :=
  if !s.watching then s
  else
    let s := readings.foldl State.takeReading s
    let far := neighbours.filter s.mayJoin
    let s := s.setPwr fun p => { p with pairs := far }
    let s := (readings.flatMap fun r => (meshNeighbours r.island).map (r.island, ·)).foldl State.pairJudge s
    let s := far.foldl State.pairJudge s
    (stackTemps.foldl State.takeStack s).showHold

/-! ## The governor (R523 to R529, R532, R545) -/

/-- The target G in W. -/
def State.target (s : State) : Nat := min (s.rd Reg.PWR_CTRL.CAP_W) (97 * s.rd Reg.REF_CLAMP.P_MAX_W / 100)

/-- C, H and whether M is above G: one period of R526. -/
def governed (c h m100 g : Nat) : Nat × Nat :=
  if 100 * g < m100 then (if h = 0 && decide (1200 < c) then (c - 25, h) else if h < 63 then (c, h + 1) else (c, h))
  else if m100 < 95 * g then (if 0 < h then (c, h - 1) else if c < 1900 then (c + 25, h) else (c, h))
  else (c, h)

/-- The ceiling before WARN_C acts: boost where it is enabled, the island is cool, and M is well below G. -/
def State.baseCeiling (s : State) (n m100 : Nat) : Nat :=
  if s.on Reg.PWR_CTRL.BOOST_EN && decide (s.rd (Reg.ISL_STATE.TEMP_C n) < s.rd Reg.PWR_CTRL.BOOST_T_C) &&
      decide (m100 < 90 * s.target) then 1900 else 1600

def State.ceilSteps (s : State) (n : Nat) : Nat := mapGet s.pwr.ceil 0 n
def State.lowSteps (s : State) (n : Nat) : Nat := mapGet s.pwr.low 0 n

/-- An island's warning state and ceiling steps after a period (R526). -/
def State.warnStep (s : State) (n base : Nat) : State :=
  let t := s.rd (Reg.ISL_STATE.TEMP_C n)
  let warn := s.rd Reg.PWR_CTRL.WARN_C
  let k := s.ceilSteps n
  let put := fun (k : Nat) (s : State) => s.setPwr fun p => { p with ceil := if k = 0 then mapErase p.ceil n else mapSet p.ceil n k }
  if warn ≤ t then
    let s := put (if 1200 < base - 25 * k then k + 1 else k) s
    if s.pwr.warned.contains n then s
    else (s.setPwr fun p => { p with warned := n :: p.warned }).note Ev.THERM_WARN 15 n none []
  else if t + 5 < warn then put (k - 1) (s.setPwr fun p => { p with warned := p.warned.filter (· != n) })
  else s

/-- Steps taken off an island short of margin: one more per period down to floor, where it is held; given back one per period
once the margin has returned (R545, log entry 99). -/
def State.marginStep (s : State) (n clock : Nat) : State :=
  let k := s.lowSteps n
  let put := fun (k : Nat) (s : State) => s.setPwr fun p => { p with low := if k = 0 then mapErase p.low n else mapSet p.low n k }
  if s.pwr.short.contains n then
    if 1200 < clock - 25 * k then put (k + 1) s
    else if s.hasCause n Cause.MARGIN then s
    else (s.setCause n Cause.MARGIN true).note Ev.MARGIN_LOW 15 n none []
  else put (k - 1) s

/-- The trim of an island in steps of 5 mV, offset by 6. -/
def State.trim6 (s : State) (n : Nat) : Nat := (s.rd (Reg.ISL_STATE.TRIM n) + 6) % 16

/-- A voltage setpoint in steps of 5 mV above 670 mV (R523). -/
def State.setpoint (s : State) (n f : Nat) : Nat := (f - 1200) / 25 + s.trim6 n

/-- The clock of an island before its neighbours are looked at. -/
def State.ownClock (s : State) (n c m100 : Nat) : Nat :=
  if s.pwr.clamp then 1200 else max 1200 (min c (s.baseCeiling n m100 - 25 * s.ceilSteps n) - 25 * s.lowSteps n)

/-- The clock at which a setpoint is at most 140 mV above that of each neighbour (R532). -/
def State.boundClock (s : State) (clocks : List (Nat × Nat)) (n f : Nat) : Nat :=
  let near := meshNeighbours n ++ s.pwr.pairs.filterMap fun p =>
    if p.1 = n then some p.2 else if p.2 = n then some p.1 else none
  let others := near.filterMap fun m => if !s.sensed m then none else if 512 ≤ m then some (s.setpoint m 1600) else
      (mapGet? clocks m).map (s.setpoint m)
  others.foldl (fun f v => if v + 28 < s.setpoint n f then max 1200 (f - 25 * (s.setpoint n f - (v + 28))) else f) f

/-- One period: M against G, ceilings, clocks. -/
def opGovernorPeriod (s : State) : State :=
  match (if s.watching then s.pwr.sum? else none) with
  | none => s
  | some m =>
    let g := s.target
    let c0 := s.rd Reg.PWR_STATUS.CLK_MHZ
    let h0 := s.rd Reg.PWR_STATUS.DITHER
    let (c, h) := governed c0 h0 m g
    let capping := if c < 1600 || 0 < h then (if 100 * g < m then 1 else s.rd Reg.PWR_STATUS.CAPPING) else 0
    let s := (((s.wr Reg.PWR_STATUS.CLK_MHZ c).wr Reg.PWR_STATUS.DITHER h).wr Reg.PWR_STATUS.CAPPING capping).wr
      Reg.PWR_STATUS.DRAW_W (m / 100)
    let s := if 0 < h then
        let s := if s.pwr.ditherP = 9 then s.inc Reg.PWR_COUNT.DITHER_MS 1 else s
        s.setPwr fun p => { p with ditherP := (p.ditherP + 1) % 10 }
      else s
    let isls := s.computeIslands.filter s.clocked
    let s := isls.foldl (fun s n => s.warnStep n (s.baseCeiling n m)) s
    let s := isls.foldl (fun s n => s.marginStep n (min c (s.baseCeiling n m - 25 * s.ceilSteps n))) s
    let clocks := isls.map fun n => (n, s.ownClock n c m)
    clocks.foldl (fun s e => s.wr (Reg.ISL_STATE.FREQ_MHZ e.1) (s.boundClock clocks e.1 e.2)) s

/-- Compute island `i` in the numbering of R527. -/
def ditherIndex (n : Nat) : Nat := 20 * (n / 32) + n % 32

/-- A dither slot: compute islands are held or let go by the level H. -/
def opDitherSlot (s : State) : State :=
  if !s.watching then s
  else
    let k := s.pwr.slot
    let h := s.rd Reg.PWR_STATUS.DITHER
    let s := s.setPwr fun p => { p with slot := (p.slot + 1) % 64 }
    s.computeIslands.foldl (fun s n => s.setCause n Cause.DITHER (decide ((k + ditherIndex n) % 64 < h))) s

/-- A write of PWR_CTRL (R528, R529). M is 0 before 1 ms of samples stands. -/
def opCapWrite (w : Wr) (s0 : State) : State :=
  let off := Reg.PWR_CTRL.CAP_W.off
  let s := s0.writeAt off w
  if s0.unreachable w.src off || w.src = .frontEnd || !w.covers Reg.PWR_CTRL.CAP_W then s
  else
    let v := w.field Reg.PWR_CTRL.CAP_W
    let m := s.pwr.sum?.getD 0
    if 3200 < v then s.wr Reg.PWR_CTRL.CAP_W (s0.rd Reg.PWR_CTRL.CAP_W)
    else
      let s := if v < 1150 then (s.wr Reg.PWR_CTRL.CAP_W 1150).note Ev.CAP_FLOORED 15 refIsland none [] else s
      let cap := max v 1150
      if cap * 100 < m then s.note Ev.QUOTA_OVER 15 refIsland none [(1, 4), (8, cap), (8, m / 100)] else s

/-! ## Gating (R538 to R543) -/

/-- The compute islands that PWR_GATE names; none where it names no compute island in service. -/
def State.gateTargets (s : State) : List Nat :=
  let n := s.rd Reg.PWR_GATE.ISLAND
  if 512 ≤ n || s.dieFenced (n / 32) then []
  else if s.on Reg.PWR_GATE.ALL_DIE then span (n / 32 * 32) 20
  else if n % 32 < 20 then [n] else []

/-- Every tile of the islands is IDLE, and no op staged or in progress names one (R539). -/
def State.gateIdle (s : State) (ns : List Nat) : Bool :=
  s.tiles.all (fun p => !ns.contains (s.tileIsland p.1) || p.2.st = .idle) &&
  s.allOps.all fun p => !(p.2.st = .staged || p.2.st = .running || p.2.st = .executed) ||
    p.2.tiles.all fun t => !ns.contains (s.tileIsland t)

def State.refuseGate (s : State) : State := s.wr Reg.PWR_GATE_STATUS.REFUSED 1

/-- Islands start to move. -/
def State.moveIslands (s : State) (ns : List Nat) (st : Nat) : State :=
  if ns.isEmpty then s
  else
    ns.foldl (fun s n => s.wr (Reg.ISL_STATE.STATE n) st)
      ((s.setPwr fun p => { p with gating := ns }).wr Reg.PWR_GATE_STATUS.BUSY 1)

/-- A GO with UP 0 or UP 1. -/
def State.gateGo (s : State) : State :=
  let ns := s.gateTargets
  if s.on Reg.PWR_GATE_STATUS.BUSY || ns.isEmpty then s.refuseGate
  else if s.on Reg.PWR_GATE.UP then s.moveIslands (ns.filter fun n => s.islSt n = Isl.GATED) Isl.UNGATING
  else if ns.any (fun n => s.islSt n = Isl.HELD) || !s.gateIdle ns then s.refuseGate
  else s.moveIslands (ns.filter fun n => s.islSt n = Isl.RUN) Isl.DRAINING

/-- A write of PWR_GATE. -/
def opPwrGate (w : Wr) (s0 : State) : State :=
  let off := Reg.PWR_GATE.GO.off
  let s := s0.writeAt off w
  if s0.unreachable w.src off || w.src = .frontEnd || s.stopped || !w.starts Reg.PWR_GATE.GO then s else s.gateGo

def opGateRequest (w : Wr) (s : State) : State := opPwrGate w s
def opUngateRequest (w : Wr) (s : State) : State := opPwrGate w s

/-- A moving island has arrived; BUSY falls with the last. -/
def State.arrived (s : State) (n : Nat) : State :=
  let s := s.setPwr fun p => { p with gating := p.gating.filter (· != n) }
  if s.pwr.gating.isEmpty then s.wr Reg.PWR_GATE_STATUS.BUSY 0 else s

/-- The tiles that a compute island clocks: those of its own area, and the positions that its bench tiles serve (R55, R66). -/
def State.islandTiles (s : State) (n : Nat) : List Nat :=
  let near := (List.range 256).map fun i => tileId (n / 32) (n % 32 / 5 * 16 + i / 16) (n % 32 % 5 * 16 + i % 16)
  let served := match s.fit with
    | some m => m.serves.map fun e => tileId e.1 e.2.1 e.2.2.2
    | none => []
  (near ++ served).filter fun t => s.tileIsland t = n

/-- The tiles of an island lose what they hold; the words found uncorrectable since boot stay counted. -/
def State.losePower (s : State) (n : Nat) : State :=
  let dark := fun (t : Tile) => { Tile.reset with ueWords := t.ueWords, lost := true }
  let s' := { s with tiles := s.tiles.map fun p => if s.tileIsland p.1 = n then (p.1, dark p.2) else p }
  (s.islandTiles n).foldr (fun t s => s.setTile t (dark (s.tile t))) s'

/-- An island that turns off has no neighbours: holds that it caused are let go (R531). -/
def State.dropNeighbours (s : State) (n : Nat) : State :=
  let gone := s.pwr.nbr.filter fun e => e.1 = n || e.2.1 = n
  let s := s.setPwr fun p => { p with nbr := p.nbr.filter fun e => e.1 != n && e.2.1 != n }
  gone.foldl (fun s e =>
    if s.pwr.nbr.any (fun x => x.1 = e.1 && x.2.2 = e.2.2) then s
    else s.setCause e.1 (if e.2.2 then Cause.NBR_VOLT else Cause.NBR_TEMP) false) s

/-- A tile-window access to the island was accepted before its drain began: it completes first (R540 step 2). -/
def State.twPending (s : State) (n : Nat) : Bool :=
  match s.tw with
  | some a => !a.dark && s.tileIsland (s.tileKey a.tile) = n
  | none => false

/-- The fence closes and the rail turns off. -/
def opIslandDrainDone (n : Nat) (s : State) : State :=
  if s.stopped || s.islSt n != Isl.DRAINING || s.twPending n then s
  else
    let s := s.losePower n
    let s := ((((s.wr (Reg.ISL_STATE.STATE n) Isl.GATED).wr (Reg.ISL_STATE.HOLD n) 0).wr (Reg.ISL_STATE.FREQ_MHZ n) 0).wr
      (Reg.ISL_STATE.VOLT_MV n) 0).wr (Reg.ISL_STATE.TEMP_C n) 0
    ((s.dropNeighbours n).arrived n).note Ev.ISLAND_GATED 15 n none []

/-- Rail and clock are up. -/
def opUngateRampDone (n : Nat) (s : State) : State :=
  if s.stopped || s.islSt n != Isl.UNGATING then s
  else
    let st := if s.rd (Reg.ISL_STATE.HOLD n) = 0 then Isl.RUN else Isl.HELD
    let s := (s.wr (Reg.ISL_STATE.STATE n) st).wr (Reg.ISL_STATE.FREQ_MHZ n) 1200
    (s.arrived n).note Ev.ISLAND_UNGATED 15 n none []

/-! ## Live calibration (R544, R545) -/

/-- The trim of an island moves one step up while its monitors report short margin; without, whether it moves down is a free
value (log entry 99). At the top it is short of margin. -/
def opMarginTrim (n : Nat) (short : Bool) (s : State) : State :=
  if !s.watching || !decide (n < 512) || !s.sensed n then s
  else
    let t := s.trim6 n
    let put := fun (v : Nat) (s : State) => s.wr (Reg.ISL_STATE.TRIM n) ((v + 10) % 16)
    if short then
      if t < 12 then put (t + 1) s
      else s.setPwr fun p => { p with short := if p.short.contains n then p.short else n :: p.short }
    else
      let down := b2n (Config.trimDown s.pwr.trims)
      let s := (put (t - down) s).setPwr fun p => { p with short := p.short.filter (· != n), trims := p.trims + 1 }
      s.setCause n Cause.MARGIN false

/-- A lane's eye margin is measured; the lane stays in service. -/
def opLaneMarginCheck (eth : Bool) (port _lane : Nat) (low : Bool) (s : State) : State :=
  if !s.watching || !low then s
  else if eth then (if s.ethUp port then s.note Ev.LANE_MARGIN_LOW 15 (ethIsland port) none [] else s)
  else if decide (port < 18) && s.portState port = Port.UP then s.note Ev.LANE_MARGIN_LOW 15 (linkIsland port) none []
  else s

def execSensorSample (readings : List IslandReading) (neighbours stackTemps : List (Nat × Nat)) (s : State) : Out :=
  .next (opSensorSample readings neighbours stackTemps s)
def execGovernorPeriod (s : State) : Out := .next (opGovernorPeriod s)
def execDitherSlot (s : State) : Out := .next (opDitherSlot s)
def execMarginTrim (island : Nat) (short : Bool) (s : State) : Out := .next (opMarginTrim island short s)
def execLaneMarginCheck (eth : Bool) (port lane : Nat) (low : Bool) (s : State) : Out := .next (opLaneMarginCheck eth port lane low s)
def execCapWrite (w : Wr) (s : State) : Out := .next (opCapWrite w s)
def execGateRequest (w : Wr) (s : State) : Out := .next (opGateRequest w s)
def execIslandDrainDone (island : Nat) (s : State) : Out := .next (opIslandDrainDone island s)
def execUngateRequest (w : Wr) (s : State) : Out := .next (opUngateRequest w s)
def execUngateRampDone (island : Nat) (s : State) : Out := .next (opUngateRampDone island s)

end Sys2Proof.Machine
end

