-- ==== Sys2Proof/Machine/Boot.lean ====
section
/-! DEFINITION. Pins, power, the boot and its fitness scan (R20 to R26, R54, R65 to R71, R284, R291, R436, R476, R549 to R564). -/

namespace Sys2Proof.Machine

def State.setPins (s : State) (f : Pins → Pins) : State := { s with pins := f s.pins }

/-- The device time base has passed `ms` since PERST_N was released. -/
def State.timeAt (s : State) (ms : Nat) : State := { s with now := max s.now (s.pins.tRelease + ms * 1000000) }

/-! ## Power and PERST_N (R552, R557 to R561) -/

/-- The state without power: what flash, fuses and the host hold stays (R560, log entry 100). -/
def State.powerOff (s : State) : State :=
  let last := mapGet? s.box.maps (s.box.bootSeq % 8)
  let t : State :=
    { State.reset with
        pending := s.pending, free := s.free, hostMem := s.hostMem, sent := s.sent
        box := { s.box with hours0 := s.box.hours }, bootSeq := s.box.bootSeq
        fit := last, pins := ⟨false, s.pins.perstN, false, false, 0⟩
        cap := { Captain.reset with slotA := s.cap.slotA, slotB := s.cap.slotB, prefer := s.cap.prefer, svnFused := s.cap.svnFused,
                                    revoked := s.cap.revoked } }
  t.wr Reg.BOOT_STATUS.STAGE Stage.OFF

def opPwrgdFall (s : State) : State := if s.pins.pwrgd then s.powerOff else s

/-- The rising edge samples the straps. -/
def opPwrgdRise (addr refclkSel : Nat) (s : State) : State :=
  if s.pins.pwrgd then s
  else
    let s := (s.wr Reg.STRAP_STATUS.ADDR addr).wr Reg.STRAP_STATUS.REFCLK_SEL refclkSel
    (s.setPins fun p => { p with pwrgd := true, railsUp := false }).setStage Stage.STANDBY

/-- The PCIe link trains: the generation and width reached are the link's and the host's (free values, log entry 102). -/
def State.trainPcie (s : State) : State :=
  let g := 1 + (Config.freeWord s.free).toNat % 6
  let w := 2 ^ ((Config.freeWord (s.free + 1)).toNat % 5)
  { (s.wr Reg.HI_STATUS.SPEED g).wr Reg.HI_STATUS.WIDTH w with free := s.free + 2 }

/-- STANDBY ends once the rails are up and PERST_N is high. -/
def State.tryRom (s : State) : State :=
  if s.stage = Stage.STANDBY && s.pins.railsUp && s.pins.perstN then s.trainPcie.setStage Stage.ROM else s

def opRailsUp (s : State) : State :=
  if !s.pins.pwrgd || s.pins.railsUp then s else (s.setPins fun p => { p with railsUp := true }).tryRom

def opPerstRelease (s : State) : State :=
  if !s.pins.pwrgd || s.pins.perstN then s
  else (s.setPins fun p => { p with perstN := true, tRelease := s.now }).tryRom

/-- PERST_N asserts while the module is powered; during a whistle the sequence goes on (R502, R559). -/
def opPerstAssert (s : State) : State :=
  if !s.pins.pwrgd || !s.pins.perstN then s
  else
    let s := ((s.deviceReset 2).wr Reg.HI_STATUS.SPEED 0).wr Reg.HI_STATUS.WIDTH 0
    (s.setPins fun p => { p with perstN := false }).setStage Stage.STANDBY

/-- A Hot Reset or link-down of a module that is out of reset (R436). -/
def opPcieHotReset (s : State) : State :=
  if s.stage = Stage.OFF || s.stage = Stage.STANDBY then s else (s.deviceReset 3).trainPcie.setStage Stage.ROM

/-! ## Firmware (R475, R476) -/

/-- The image of a slot passes the ROM's checks; the operand says whether it still does as it stands in flash. -/
def Captain.slotOk (c : Captain) (n : Nat) (ok : Bool) : Bool :=
  ok && match c.slot n with
    | some h => c.accepts h
    | none => false

/-- Firmware of slot `n` is loaded. -/
def State.bootSlot (s : State) (n : Nat) : State :=
  let h := (s.cap.slot n).getD FwHead.factory
  let fall := n != s.cap.prefer
  let s := (((s.wr Reg.MB_FW_VERSION.PATCH (bitsOf h.version 0 8)).wr Reg.MB_FW_VERSION.MINOR (bitsOf h.version 8 8)).wr
    Reg.MB_FW_VERSION.MAJOR (bitsOf h.version 16 8)).wr Reg.MB_FW_VERSION.SVN h.svn
  let s := (s.wr Reg.MB_FW_VERSION.SLOT n).wr Reg.MB_FW_VERSION.FALLBACK (b2n fall)
  let s := (s.setCap fun c => { c with booted := n }).setStage Stage.SCAN
  if fall then s.note Ev.FW_FALLBACK 13 captainIsland none [] else s

/-- The boot ROM tries the preferred slot first and the other second. -/
def opFwVerifyDone (aOk bOk : Bool) (ms : Nat) (s : State) : State :=
  if s.stage != Stage.ROM then s
  else
    let s := s.timeAt ms
    let good := fun n => s.cap.slotOk n (if n = 0 then aOk else bOk)
    let p := s.cap.prefer
    if good p then s.bootSlot p
    else if good (1 - p) then s.bootSlot (1 - p)
    else
      let s := [Reg.MB_FW_VERSION.PATCH, Reg.MB_FW_VERSION.MINOR, Reg.MB_FW_VERSION.MAJOR, Reg.MB_FW_VERSION.SVN,
        Reg.MB_FW_VERSION.SLOT, Reg.MB_FW_VERSION.FALLBACK].foldl (fun s f => s.wr f 0) s
      (s.setStage Stage.FAILED).wr Reg.BOOT_STATUS.FAIL 1

/-! ## The fitness scan (R24 to R26, R65 to R71, R284, R506, R514) -/

/-- The failures on which this boot acts: those recorded since the previous map was published. -/
def State.actsOn (s : State) : List FailRec := (s.fails ++ s.failsKept ++ s.box.failList).filter fun f => f.bootSeq = s.bootSeq

/-- The previous boot's map; before the first boot nothing has failed. -/
def State.lastMap (s : State) : FitMap := s.fit.getD ⟨0, false, none, none, [], [], [], []⟩

/-- The failed physical tiles: found by the scan, or recorded. -/
def State.failedTiles (s : State) (x : ScanFinding) : List Nat :=
  (x.tiles ++ (s.actsOn.filter fun f => f.kind = 1).map (·.id)).eraseDups

/-- One row of a die: what serves which position, which bench tiles have failed, and whether every position is served. -/
structure RowFit where
  serves : List (Nat × Nat × Nat × Nat)
  bench : List (Nat × Nat × Nat)
  whole : Bool
  deriving DecidableEq, Repr

/-- The healthy bench tiles given to positions in ascending order; what is left over is unserved. -/
def assign (d r : Nat) : List Nat → List Nat → List (Nat × Nat × Nat × Nat) × Bool
  | [], _ => ([], true)
  | _ :: _, [] => ([], false)
  | c :: cs, b :: bs =>
    let a := assign d r cs bs
    ((d, r, b, c) :: a.1, a.2)

/-- A row under R66: servers that are still healthy keep their positions, failed positions without one receive the row's healthy
unassigned bench tiles, column 80 first. -/
def rowFit (m : FitMap) (failed : List Nat) (d r : Nat) : RowFit :=
  let bench := [0, 1].filter fun b => m.benchFailed.contains (d, r, b) || failed.contains (tileId d r (80 + b))
  let old := m.serves.filter fun e => e.1 = d && e.2.1 = r
  let keep := old.filter fun e => !bench.contains e.2.2.1
  let lost := (List.range 80).filter fun c =>
    (failed.contains (tileId d r c) || old.any fun e => e.2.2.2 = c) && !keep.any fun e => e.2.2.2 = c
  let spare := [0, 1].filter fun b => !bench.contains b && !keep.any fun e => e.2.2.1 = b
  let a := assign d r lost spare
  ⟨keep ++ a.1, bench.map fun b => (d, r, b), a.2⟩

def dieRows (m : FitMap) (failed : List Nat) (d : Nat) : List RowFit := (List.range 64).map (rowFit m failed d)

/-- The failed tiles of a die: served positions and unserved ones, and failed bench tiles. -/
def dieFailures (m : FitMap) (failed : List Nat) (d : Nat) : Nat :=
  count (fun t => tileDie t = d) ((failed ++ m.serves.map (fun e => tileId e.1 e.2.1 e.2.2.2) ++
    m.benchFailed.map fun e => tileId e.1 e.2.1 (80 + e.2.2)).eraseDups)

/-- A die in service meets the fencing rule (R56, R66). -/
def State.dieFails (s : State) (x : ScanFinding) (failed : List Nat) (d : Nat) : Bool :=
  x.dies.contains d || s.actsOn.any (fun f => f.kind = 2 && f.id = d) ||
  (dieRows s.lastMap failed d).any (fun r => !r.whole) || decide (128 < dieFailures s.lastMap failed d)

/-- A stack in service is to be fenced (R284). -/
def State.stackFails (s : State) (x : ScanFinding) (k : Nat) : Bool :=
  x.stackIds.contains k || s.actsOn.any fun f => f.kind = 3 && f.id = k

/-- The part fenced, and whether more parts fail than may be fenced: an earlier fence stays, then one new one may come (R24,
R67). -/
def fenceOne (old : Option Nat) (news : List Nat) : Option Nat × Bool :=
  match old with
  | some d => (some d, !(news.filter (· != d)).isEmpty)
  | none => (news.head?, decide (1 < news.length))

/-- The map of this boot. -/
def State.newMap (s : State) (x : ScanFinding) : FitMap :=
  let m := s.lastMap
  let failed := s.failedTiles x
  let dies := fenceOne m.fencedDie ((List.range 16).filter fun d => m.fencedDie != some d && s.dieFails x failed d)
  let badStacks := fenceOne m.fencedStack ((List.range 12).filter fun k => m.fencedStack != some k && s.stackFails x k)
  let hub := !x.hubs.isEmpty || s.actsOn.any fun f => f.kind = 7
  let rows := ((List.range 16).filter fun d => m.fencedDie != some d).flatMap (dieRows m failed)
  { bootSeq := s.bootSeq + 1, unfit := dies.2 || badStacks.2 || hub, fencedDie := dies.1, fencedStack := badStacks.1
    serves := rows.flatMap (·.serves), benchFailed := rows.flatMap (·.bench)
    links := (List.range 18).map (nth x.links 0), eths := (List.range 6).map (nth x.eths 0) }

/-- The failures that the boot's own tests enter: parts not known as failed before, and a die fenced at this boot (R517). -/
def State.bootFailures (s : State) (x : ScanFinding) (m : FitMap) : List PartFail :=
  let old := s.lastMap
  let known := fun t => old.benchFailed.contains (tileDie t, tileRow t, tileCol t - 80) && decide (80 ≤ tileCol t) ||
    old.serves.any fun e => tileId e.1 e.2.1 e.2.2.2 = t
  (x.tiles.filter fun t => !known t).map (⟨1, 0, ·, 0⟩) ++ x.dies.map (⟨2, 0, ·, 0⟩) ++ x.stackIds.map (⟨3, 0, ·, 0⟩) ++
  x.hubs.map (fun h => ⟨7, 0, 16 + h, 0⟩) ++
  (match m.fencedDie with
  | some d => if old.fencedDie = some d then [] else [⟨8, 0, d, 0⟩]
  | none => [])

/-- Ports are tested again: a port that is down at boot is DOWN, any other that was DOWN is OFF (R409, R457). -/
def State.testPorts (s : State) (m : FitMap) : State :=
  let s := (List.range 18).foldl (fun s p =>
    if nth m.links 0 p = 1 then s.wr (Reg.LINK_PORT.STATE p) Port.DOWN
    else if s.portState p = Port.DOWN then s.wr (Reg.LINK_PORT.STATE p) Port.OFF else s) s
  (List.range 6).foldl (fun s p =>
    if nth m.eths 0 p = 1 then s.wr (Reg.ETH_PORT.STATE p) Port.DOWN
    else if s.ethState p = Port.DOWN then s.wr (Reg.ETH_PORT.STATE p) Port.OFF else s) s

/-- Every island of the dies in service runs at floor; a fenced die is gated; hub and control islands run at 1,600 MHz. -/
def State.startIslands (s : State) : State :=
  let s := s.computeIslands.foldl (fun s n => s.wr (Reg.ISL_STATE.FREQ_MHZ n) 1200) s
  let s := ((span 512 128).filter islandExists).foldl (fun s n => s.wr (Reg.ISL_STATE.FREQ_MHZ n) 1600) s
  ((List.range 16).filter s.dieFenced).foldl (fun s d =>
    (span (islandId d 0) 20).foldl (fun s n => s.wr (Reg.ISL_STATE.STATE n) Isl.GATED) s) s

/-- The memory after the boot: kept where the stack list is unchanged (R291, R292). -/
def State.bootMemory (s : State) (same : Bool) : State :=
  let n := s.stackList.length
  let s := (s.wr Reg.MEM_INFO.STACKS (sumNat (s.stackList.map (2 ^ ·)))).wr Reg.MEM_INFO.N n
  let s := (s.wr Reg.MEM_INFO.PRESERVED (b2n same)).wr Reg.MEM_INFO.USABLE_GIB (if n = 12 then 766 else 702)
  if same then s else { s with hbm := [], poison := [] }

/-- The scan ends: the map is published, and the module is READY or UNFIT. -/
def opFitnessScanDone (found : ScanFinding) (ms : Nat) (s : State) : State :=
  if s.stage != Stage.SCAN then s
  else
    let s := s.timeAt ms
    let m := s.newMap found
    let fresh := s.bootFailures found m
    let same := decide (m.fencedStack = s.lastMap.fencedStack)
    let s := { s with fit := some m, bootSeq := m.bootSeq, ceRows := [], ueRows := [] }
    let s := fresh.foldl (fun s f => s.recordFailAt m.bootSeq f.kind f.typ f.id f.detail) s
    let s := ((s.testPorts m).startIslands).bootMemory same
    let s := ((s.wr Reg.FIT_STATUS.VALID 1).wr Reg.FIT_STATUS.UNFIT (b2n m.unfit)).wr Reg.FIT_STATUS.BOOT_SEQ m.bootSeq
    let s := (s.setStage (if m.unfit then Stage.UNFIT else Stage.READY)).wr Reg.MB_STATUS.FW_READY 1
    (s.wr Reg.REF_WDOG.STATE Wdog.RUNNING).setCap fun c => { c with kickAt := s.now }

/-! ## Sideband outputs and PLDM (R552 to R555) -/

/-- Powered and out of reset. -/
def State.outOfReset (s : State) : Bool := s.pins.pwrgd && s.pins.perstN

/-- READY is high. -/
def State.readyHigh (s : State) : Bool := s.outOfReset && s.stage = Stage.READY
/-- FAULT_N is driven low. -/
def State.faultLow (s : State) : Bool := s.outOfReset && (s.stage = Stage.UNFIT || s.stage = Stage.FAILED)
/-- THERM_N is driven low. -/
def State.thermLow (s : State) : Bool :=
  s.outOfReset && (s.on Reg.REF_CLAMP.HOLD_ACTIVE || (List.range 12).any (fun k => s.on (Reg.MEM_HBM_TEMP.HOT k)) ||
    (List.range 640).any fun n => islandExists n && decide (s.rd Reg.PWR_CTRL.WARN_C ≤ s.rd (Reg.ISL_STATE.TEMP_C n)))
/-- ALERT_N is driven low. -/
def State.alertLow (s : State) : Bool := s.outOfReset && s.ev.alarms.any fun a => !a.hall
/-- WHISTLE_N is driven low. -/
def State.whistleLow (s : State) : Bool := s.outOfReset && s.pins.whistle

/-- A sensor of R555: 0 the module's input power in W, 1 to 16 the hottest junction of a compute die, 17 to 28 the stacks
(numbering: log entry 101). -/
def State.pldmSensor (s : State) (k : Nat) : Option Nat :=
  if k = 0 then some (s.rd Reg.PWR_STATUS.DRAW_W)
  else if k ≤ 16 then some ((span (islandId (k - 1) 0) 20).foldl (fun m n => max m (s.rd (Reg.ISL_STATE.TEMP_C n))) 0)
  else if k ≤ 28 then some (s.rd (Reg.MEM_HBM_TEMP.TEMP_C (k - 17)))
  else none

/-- A request is acknowledged once FW_READY reads 1. -/
def opPldmRequest (sensor : Nat) (s : State) : State :=
  if !s.outOfReset || !s.on Reg.MB_STATUS.FW_READY then s
  else match s.pldmSensor sensor with
    | some v => s.send (.pldm sensor v)
    | none => s

def execPwrgdRise (addr refclkSel : Nat) (s : State) : Out := .next (opPwrgdRise addr refclkSel s)
def execRailsUp (s : State) : Out := .next (opRailsUp s)
def execPwrgdFall (s : State) : Out := .next (opPwrgdFall s)
def execPerstAssert (s : State) : Out := .next (opPerstAssert s)
def execPerstRelease (s : State) : Out := .next (opPerstRelease s)
def execPcieHotReset (s : State) : Out := .next (opPcieHotReset s)
def execFwVerifyDone (aOk bOk : Bool) (ms : Nat) (s : State) : Out := .next (opFwVerifyDone aOk bOk ms s)
def execFitnessScanDone (found : ScanFinding) (ms : Nat) (s : State) : Out := .next (opFitnessScanDone found ms s)
def execPldmRequest (sensor : Nat) (s : State) : Out := .next (opPldmRequest sensor s)

end Sys2Proof.Machine
end

