-- ==== Sys2Proof/Machine/Link.lean ====
section
/-! DEFINITION. The package network's hop, the link ports, and membership of the link domain (R19, R401 to R416). -/

namespace Sys2Proof.Machine

/-! ## The package network (R19, R493) -/

/-- A hop takes a flit: its island runs, its die is not fenced, and a bridge ends only at a site that has one enabled (R16, R18,
R20). On which island of its site a bridge ends, the spec does not say. -/
def State.hopWorks (s : State) (island link : Nat) : Bool :=
  islandExists island && !s.siteFenced (island / 32) && (s.islSt island = Isl.RUN || s.islSt island = Isl.DRAINING) &&
  (link != 4 || s.enabledBridges.any fun b => b.1 = island / 32 || b.2 = island / 32)

/-- A hop receives a flit: a correction, a replay, or after four failed replays the whistle. -/
def opPackageFlitReceive (island link : Nat) (found : ErrFound) (replays : Nat) (s : State) : State :=
  if s.stopped || !s.hopWorks island link then s
  else match found with
    | .none => s
    | .ce => s.note Ev.NET_CE 5 island none []
    | .ue =>
      if 4 ≤ replays then
        (if island < 512 then s.recordFail 2 Ev.NET_FAIL (island / 32) 0 else s).faultD Ev.NET_FAIL 5 island none [(2, island), (1, link)]
      else s.raise Ev.NET_REPLAY 1 5 island none []

/-! ## Ports (R407 to R409) -/

/-- The module expected at the far end of a port (R402). -/
def State.expectedPeer (s : State) (p : Nat) : Nat := s.neighbour s.myIndex (p % 6)

def State.portEvent (s : State) (typ p peer : Nat) : State := s.note typ 10 (linkIsland p) none [(2, p), (2, peer)]

/-- A port leaves UP: its flits are sent again elsewhere (R408, R409). -/
def State.portDown (s : State) (p to_ typ : Nat) : State :=
  let s := if to_ = Port.DOWN then s.recordFail 5 typ p 0 else s
  (((s.wr (Reg.LINK_PORT.STATE p) to_).portEvent typ p (s.rd (Reg.LINK_PORT.PEER p)))).reinject p

/-- A RETRY asked for or met: a class P event. -/
def State.retryNote (s : State) (p : Nat) : State :=
  (s.inc (Reg.LINK_PORT_COUNT.RETRIES p) 1).raise Ev.LINK_RETRY 1 10 (linkIsland p) none []

/-- A flit that fails: the first failure, and each failure of the SEQ that is expected, asks for it again; the eighth takes the
port DOWN. -/
def State.flitFails (s : State) (p seq : Nat) : State :=
  let x := s.port p
  if x.retried && seq != x.expect then s
  else if 8 ≤ x.fails + 1 then s.portDown p Port.DOWN Ev.LINK_DOWN
  else
    let s := s.setPort p { x with fails := x.fails + 1, retried := true }
    ((s.emit p (Hdr.bare Flit.RETRY) 0 x.expect []).send (.retry p x.expect)).retryNote p

/-- The island that a flit for this module is addressed to refuses it: not a member, or gated (R415, R420). -/
def State.flitRefused (s : State) (h : Hdr) : Option Nat :=
  let isl := s.islSt (islandId (16 + h.plane) 2)
  if !(h.typ = Flit.DATA || h.typ = Flit.READY) then none
  else if s.rd Reg.LINK_STATUS.MSTATE < 2 then some Nack.PEER_DOWN
  else if isl = Isl.GATED || isl = Isl.UNGATING then some Nack.DOMAIN_OFF
  else none

/-- A flit accepted in order: transit traffic goes on, and holds its buffer until it is sent; what a message for this module
says is a command of its own (log entry 86). -/
def State.flitTaken (s : State) (p : Nat) (bs : List Nat) : State :=
  let h := hdrOf bs
  if h.dst != s.myIndex then s.forward h (some (p % 6)) (flitPayload bs) (some (p, h.vc))
  else
    let s := s.freeBuffer (some (p, h.vc))
    match s.flitRefused h with
    | some code => s.nackFlit code h 0
    | none => s

/-- A flit has come in on a port (R408). -/
def State.heardPort (s : State) (p : Nat) : State := s.setPort p { s.port p with lastRx := s.now }

/-- A flit arrives on a port that is UP. IDLE and RETRY flits stand outside the sequence (log entry 86). -/
def opFlitReceive (p : Nat) (bs : List Nat) (fecBad : Bool) (corrected : Nat) (s : State) : State :=
  if s.stopped || 18 ≤ p || s.portState p != Port.UP then s
  else
    let s := (s.heardPort p).inc (Reg.LINK_PORT_COUNT.FEC_CORR p) corrected
    if fecBad || !flitOk bs then s.flitFails p (flitSeq bs)
    else
      let h := hdrOf bs
      if h.typ = Flit.IDLE then (s.takeAck p (flitAck bs) (flitCredit bs)).pump p
      else if h.typ = Flit.RETRY || 6 ≤ h.typ || flitSeq bs != (s.port p).expect then s
      else
        let s := s.takeAck p (flitAck bs) (flitCredit bs)
        let x := s.port p
        ((s.setPort p { x with expect := (x.expect + 1) % 4096, fails := 0, retried := false }).flitTaken p bs).pump p

/-- A RETRY flit: everything from the named SEQ is sent again, before any new flit; a credit that it returns counts too
(R434). -/
def opRetry (p seq credit : Nat) (s : State) : State :=
  if s.stopped || 18 ≤ p || s.portState p != Port.UP then s
  else
    let s := ((s.heardPort p).takeAck p ((seq + 4095) % 4096) (creditsOf credit)).retryNote p
    ((s.port p).unacked.foldl (fun s e => s.emit p e.2.1 e.1 (s.rxAck p) e.2.2) s).pump p

/-- No flit for 10 µs. -/
def opLinkSilence (p : Nat) (s : State) : State :=
  if s.stopped || 18 ≤ p || s.portState p != Port.UP || s.now < (s.port p).lastRx + 10000 then s else s.portDown p Port.TRAINING Ev.LINK_LOST

/-- A port in TRAINING is trained again; until its peer answers nothing changes. -/
def opPortRetrain (_p : Nat) (s : State) : State := s

/-- Training ends (R409). -/
def opPortTrainingDone (p : Nat) (r : TrainResult) (s : State) : State :=
  if s.stopped || 18 ≤ p || s.portState p != Port.TRAINING then s
  else
    let wrong :=
      ((s.wr (Reg.LINK_PORT.STATE p) Port.DOWN).wr (Reg.LINK_PORT.MISWIRED p) 1).portEvent Ev.LINK_MISWIRED p 0xFFFF
    match r with
    | .noPeer => s
    | .miswired _ => wrong
    | .up peer =>
      if peer != s.expectedPeer p then wrong
      else
        (((s.wr (Reg.LINK_PORT.STATE p) Port.UP).wr (Reg.LINK_PORT.MISWIRED p) 0).wr (Reg.LINK_PORT.PEER p) peer).setPort p
          { PortSt.reset with lastTx := s.now, lastRx := s.now }

/-! ## The map (R411, R414 to R417) -/

/-- Membership states of R416. -/
def Mst.NONE := 0
def Mst.JOINING := 1
def Mst.MEMBER := 2
def Mst.LEAVING := 3
def State.mstate (s : State) : Nat := s.rd Reg.LINK_STATUS.MSTATE
def State.setMstate (s : State) (v : Nat) : State := s.wr Reg.LINK_STATUS.MSTATE v

/-- Module numbers in rising order without repeats. -/
def insertNat (m : Nat) : List Nat → List Nat
  | [] => [m]
  | k :: rest => if m < k then m :: k :: rest else if m = k then k :: rest else k :: insertNat m rest

/-- A new map takes force: registers and events follow it, the collectives too (R411, R416, R421, R427). -/
def State.setMap (s : State) (members : List Nat) (ports : List (Nat × Nat)) (epoch : Nat) : State :=
  let old := s.root?
  let changed := s.dom.epoch != epoch || s.dom.members != members || s.dom.ports != ports
  let s := if s.dom.epoch != epoch then s.wr Reg.COLL_STATUS.MAP_CHANGED 1 else s
  let s := s.setDom fun d => { d with members := members, ports := ports, epoch := epoch }
  let s := (s.wr Reg.LINK_STATUS.ROOT (b2n s.isRoot)).wr Reg.LINK_STATUS.ROOT_IDX (s.root?.getD 0)
  let s := match old, s.root? with
    | some a, some b => if a = b then s else s.note Ev.ROOT_CHANGED 10 collIsland none [(2, b), (4, epoch)]
    | _, _ => s
  if changed then s.collMap else s

/-- The map cleared: this module belongs to no domain. -/
def State.clearMap (s : State) : State :=
  let s := if s.dom.epoch != 0 then s.wr Reg.COLL_STATUS.MAP_CHANGED 1 else s
  { (s.wr Reg.LINK_STATUS.ROOT 0).wr Reg.LINK_STATUS.ROOT_IDX 0 with dom := { Domain.reset with early := s.dom.early } }

def mapFields (d : Domain) : List Nat := d.epoch :: d.members.length :: d.members ++ d.ports.flatMap fun p => [p.1, p.2]

/-- The root sends its map to every other member. -/
def State.broadcastMap (s : State) : State :=
  (s.dom.members.filter (· != s.myIndex)).foldl (fun s m => s.ctrlTo Ctrl.MAP m (mapFields s.dom)) s

/-- The modules that the root admits in a MAP it sends: those that have asked, while it holds no vote without a decision
(R414). -/
def State.joinersNow (s : State) : List (Nat × Nat) := if s.dom.votes.isEmpty then s.dom.joiners else []

/-- Module numbers added to others. -/
def addMembers (js : List (Nat × Nat)) (l : List Nat) : List Nat := js.foldl (fun l j => insertNat j.1 l) l

/-- A change of the map at its root: EPOCH rises, joiners come in, and the map goes out. A joiner admitted since an ABORT is
owed none of it (log entry 83). -/
def State.changeMap (s : State) (members : List Nat) (ports : List (Nat × Nat)) : State :=
  let js := s.joinersNow
  let s := s.setDom fun d => { d with
    joiners := if d.votes.isEmpty then [] else d.joiners
    heard := js.foldl (fun l j => mapSet l j.1 s.now) d.heard
    membership := addMembers js d.membership
    answered := match d.decided with
      | some (_, .abort, _) => d.answered ++ js.map (·.1)
      | _ => d.answered }
  (s.setMap (addMembers js members) (js.foldl (fun l j => mapSet l j.1 j.2) ports) ((s.dom.epoch + 1) % 2 ^ 32)).broadcastMap

/-- The root removes a member (R411); a step it belonged to is judged again (R417). -/
def State.removeMember (s : State) (m : Nat) : State :=
  if !s.isRoot || m = s.myIndex || !s.dom.members.contains m then s
  else
    let s := s.setDom fun d => { d with departed := d.departed || d.membership.contains m }
    let s := s.changeMap (s.dom.members.filter (· != m)) (mapErase s.dom.ports m)
    (s.note Ev.MEMBER_LOST 10 collIsland none [(2, m), (4, s.dom.epoch)]).judgeVotes

/-- A member's port-up bits at the root. -/
def State.takePorts (s : State) (m ports : Nat) : State :=
  if !s.isRoot || !s.dom.members.contains m || mapGet s.dom.ports 0 m = ports then s
  else s.changeMap s.dom.members (mapSet s.dom.ports m ports)

def State.active (s : State) : Bool := !s.stopped && (s.mstate = Mst.MEMBER || s.mstate = Mst.LEAVING)

/-- A notice from the neighbour on a port, or, with a port of 18, one that a neighbour has forwarded to the root (R413). -/
def opDownNotice (p m : Nat) (s : State) : State :=
  if s.stopped then s
  else
    let s := if p < 18 && s.portState p = Port.UP then s.portDown p Port.TRAINING Ev.LINK_LOST else s
    if s.isRoot then s.removeMember m
    else if p < 18 then match s.root? with
      | some r => s.ctrlTo Ctrl.DOWN_NOTICE r [m]
      | none => s
    else s

def opHeartbeatTimer (s : State) : State :=
  if !s.active then s
  else if s.isRoot then s.takePorts s.myIndex s.myPorts
  else match s.root? with
    | some r => s.ctrlTo Ctrl.HEARTBEAT r [s.myIndex, s.myPorts]
    | none => s

def opHeartbeat (m ports : Nat) (s : State) : State :=
  if s.active then (s.setDom fun d => { d with heard := mapSet d.heard m s.now }).takePorts m ports else s

/-- The root sends its map every 100 µs; one that admits joiners is a new one. -/
def opMapTimer (s : State) : State :=
  if !(s.active && s.isRoot) then s
  else if s.joinersNow.isEmpty then s.broadcastMap
  else s.changeMap s.dom.members s.dom.ports

/-- This module is root from now on, with a step membership of its map (R378); `silent` names the step for which one that was
elected decides nothing (R419). -/
def State.takeOffice (s : State) (silent : Option Nat) : State :=
  s.setDom fun d => { d with
    membership := d.members, votes := [], decided := none, answered := [], departed := false, elected := silent
    heard := d.members.map (·, s.now) }

/-- This module is out of the domain: running collectives fail, and a member posts MEMBER_LOST (R416). -/
def State.dropOut (s : State) (epoch : Nat) : State :=
  let lost := s.mstate = Mst.MEMBER
  let s := (s.setMstate Mst.NONE).collFailAll.clearMap
  if lost then s.note Ev.MEMBER_LOST 10 collIsland none [(2, s.myIndex), (4, epoch)] else s

/-- A MAP is one that this module follows (log entry 89). -/
def State.followsMap (s : State) (root epoch : Nat) : Bool :=
  s.mstate = Mst.JOINING || (decide (s.dom.epoch ≤ epoch) && !(s.isRoot && decide (s.myIndex < root)))

/-- A MAP arrives (R416). -/
def opMap (root : Nat) (members : List Nat) (ports : List (Nat × Nat)) (epoch : Nat) (s : State) : State :=
  let me := s.myIndex
  if s.stopped || s.mstate = Mst.NONE || !s.followsMap root epoch then s
  else
  let s := s.setDom fun d => { d with mapAt := s.now }
  if members.contains me then
    let joined := s.mstate = Mst.JOINING
    let was := s.isRoot
    let ms := members.foldl (fun l m => insertNat m l) []
    let s := s.setMap ms (ports.foldl (fun l p => mapSet l p.1 p.2) []) epoch
    let s := if joined then (s.setMstate Mst.MEMBER).note Ev.MEMBER_JOINED 10 collIsland none [(2, me), (4, epoch)] else s
    if s.isRoot && !was then s.takeOffice none else s
  else if s.mstate = Mst.JOINING then s
  else s.dropOut epoch

/-- No heartbeat of a member for 300 µs. -/
def opMemberTimeout (m : Nat) (s : State) : State :=
  if s.active && decide (mapGet s.dom.heard 0 m + 300000 ≤ s.now) then s.removeMember m else s

/-- No MAP for 300 µs: the root leaves the map, and the lowest member left takes office (R411, R419); a module that is not
root then is out (R416, log entry 89). -/
def opMapTimeout (s : State) : State :=
  match s.root? with
  | none => s
  | some r =>
    if !s.active || r = s.myIndex || s.now < s.dom.mapAt + 300000 then s
    else
      let ms := s.dom.members.filter (· != r)
      if s.mstate = Mst.MEMBER && ms.min? = some s.myIndex then
        (s.changeMap ms (mapErase s.dom.ports r)).takeOffice (some (s.rd Reg.SC_STEP.COUNT))
      else s.dropOut s.dom.epoch

/-- A write of LINK_CTRL (R414 to R416). -/
def opLinkCtrl (w : Wr) (s0 : State) : State :=
  let off := Reg.LINK_CTRL.JOIN.off
  let takes := fun f => w.starts f && s0.admits w.src f && !s0.unreachable w.src off && !s0.stopped
  let s := s0.writeAt off w
  let me := s.myIndex
  let s := if takes Reg.LINK_CTRL.JOIN && s0.mstate = Mst.NONE then
      /- the joiner does not know the root: the request goes to whoever it is, with the joiner's port-up bits (log entry 89) -/
      ((s.setMstate Mst.JOINING).setDom fun d => { d with mapAt := s.now }).send (.ctrl Ctrl.JOIN 0xFFFF [me, s.myPorts])
    else s
  if takes Reg.LINK_CTRL.LEAVE then
    if s0.mstate = Mst.MEMBER then s.setMstate Mst.LEAVING
    else if s0.mstate = Mst.JOINING then s.setMstate Mst.NONE
    else s
  else s

def opLinkJoin (w : Wr) (s : State) : State := opLinkCtrl w s
def opLinkLeave (w : Wr) (s : State) : State := opLinkCtrl w s

def opJoin (m ports : Nat) (s : State) : State :=
  if s.active && s.isRoot then s.setDom fun d => { d with joiners := mapSet d.joiners m ports } else s

/-- A joiner that hears no MAP takes office as root of itself alone. -/
def opJoinTimeout (s : State) : State :=
  if s.stopped || s.mstate != Mst.JOINING || s.now < s.dom.mapAt + 1000000 then s
  else
    let me := s.myIndex
    let s := (s.setMstate Mst.MEMBER).setMap [me] [(me, s.myPorts)] ((s.dom.epoch + 1) % 2 ^ 32)
    let s := s.takeOffice none
    s.note Ev.MEMBER_JOINED 10 collIsland none [(2, me), (4, s.dom.epoch)]

/-- No collective runs and every flit is acknowledged. -/
def opLeaveDrained (s : State) : State :=
  if s.stopped || s.mstate != Mst.LEAVING || s.running Cls.COLLECTIVE != 0 || s.link.any (fun p => decide (p.1 < 18) &&
      (!p.2.unacked.isEmpty || p.2.waiting.any fun f => f.held.isNone))
  then s
  else
    let s := match s.root? with
      | some r => if r = s.myIndex then s else s.ctrlTo Ctrl.LEAVE r [s.myIndex]
      | none => s
    (s.setMstate Mst.NONE).clearMap

def opLeave (m : Nat) (s : State) : State := if s.active then s.removeMember m else s

def execPackageFlitReceive (island link : Nat) (found : ErrFound) (replays : Nat) (s : State) : Out :=
  .next (opPackageFlitReceive island link found replays s)
def execFlitReceive (p : Nat) (bs : List Nat) (fecBad : Bool) (corrected : Nat) (s : State) : Out :=
  .next (opFlitReceive p bs fecBad corrected s)
def execRetry (p seq credit : Nat) (s : State) : Out := .next (opRetry p seq credit s)
def execLinkSilence (p : Nat) (s : State) : Out := .next (opLinkSilence p s)
def execPortRetrain (p : Nat) (s : State) : Out := .next (opPortRetrain p s)
def execPortTrainingDone (p : Nat) (r : TrainResult) (s : State) : Out := .next (opPortTrainingDone p r s)
def execDownNotice (p m : Nat) (s : State) : Out := .next (opDownNotice p m s)
def execHeartbeatTimer (s : State) : Out := .next (opHeartbeatTimer s)
def execHeartbeat (m ports : Nat) (s : State) : Out := .next (opHeartbeat m ports s)
def execMapTimer (s : State) : Out := .next (opMapTimer s)
def execMap (root : Nat) (members : List Nat) (ports : List (Nat × Nat)) (epoch : Nat) (s : State) : Out :=
  .next (opMap root members ports epoch s)
def execMemberTimeout (m : Nat) (s : State) : Out := .next (opMemberTimeout m s)
def execMapTimeout (s : State) : Out := .next (opMapTimeout s)
def execLinkJoin (w : Wr) (s : State) : Out := .next (opLinkJoin w s)
def execJoin (m ports : Nat) (s : State) : Out := .next (opJoin m ports s)
def execJoinTimeout (s : State) : Out := .next (opJoinTimeout s)
def execLinkLeave (w : Wr) (s : State) : Out := .next (opLinkLeave w s)
def execLeaveDrained (s : State) : Out := .next (opLeaveDrained s)
def execLeave (m : Nat) (s : State) : Out := .next (opLeave m s)

end Sys2Proof.Machine
end

