-- ==== Sys2Proof/Machine/MemoryUnit.lean ====
section
/-! DEFINITION. The memory controllers' own work: the patrol scrubber and refresh (R281 to R288). -/

namespace Sys2Proof.Machine

/-- The patrol scrubber reads a sector: a poisoned one counts again, and is not checked (R281, R282); it pauses on a stack that
is too hot (R536). -/
def opHbmPatrolScrub (e : MemErr) (s : State) : State :=
  let sec := e.addr / 32 * 32
  let st := s.stackOf sec
  if s.stopped || s.hbmTop ≤ e.addr then s
  else if s.on (Reg.MEM_HBM_TEMP.HOT st) then s
  else if s.poison.contains sec then (s.inc (Reg.MEM_STACK_COUNT.UE st) 1).poisonRead sec
  else
    let s' := s.memErr e
    if e.found = .ue then s'.poisonRead sec else s'

/-- A refresh of a channel bank changes timing only (R287). -/
def opHbmRefresh (_stack _channel : Nat) (s : State) : State := s

def execHbmPatrolScrub (e : MemErr) (s : State) : Out := .next (opHbmPatrolScrub e s)
def execHbmRefresh (stack channel : Nat) (s : State) : Out := .next (opHbmRefresh stack channel s)

end Sys2Proof.Machine
end

