-- ==== Sys2Proof/Machine/Patterns.lean ====
section
/-! DEFINITION. Pattern matching: streams, lanes, byte searches, actions, and the three output rings (R247 to R271). -/

namespace Sys2Proof.Machine

/-! ## The op and its automata (R249 to R257) -/

/-- Data bytes that a record's place holds (R258). -/
def Op.patStride (o : Op) : Nat := 64 * (o.num 3 + 1)

/-- The automaton IDs of an op, in AUT order. -/
def State.autIds (s : State) (o : Op) : List Nat :=
  (List.range (o.num 6 + 1)).map fun i => s.readNat ((o.locOf 5).plus (2 * i)) 2

def State.patPlanOf (s : State) (tiles : List Nat) : Option PatPlan :=
  ((s.tile (nth tiles 0 0)).cfg.bind fun c => mapGet? s.configs c).bind (·.pat)

/-- The plan of an automaton among the group's, if the group holds it. -/
def State.autPlan (s : State) (tiles : List Nat) (id : Nat) : Option AutPlan :=
  (s.patPlanOf tiles).bind fun p => p.auts.find? fun (a : AutPlan) => a.id = id

/-- The byte class of a byte on a bank: its map in the copy in use. -/
def State.classOf (s : State) (t : Nat) (a : AutPlan) (byte : Option Nat) : Nat :=
  match byte with
  | none => 63
  | some b =>
    let x := s.tile t
    x.sram.rdLE (s.copyBase x x.inUse + a.mapOff + b) 1 % 64

/-- Action row `r` of an automaton on a bank. -/
def State.actRow (s : State) (t : Nat) (a : AutPlan) (r : Nat) : Nat :=
  let x := s.tile t
  x.sram.rdLE (s.copyBase x x.inUse + a.actOff + 8 * r) 8

/-- The rows that apply in an accepting state: the first, and the next while MORE is set (R255). -/
def State.actRows (s : State) (t : Nat) (a : AutPlan) : Nat → Nat → List Nat
  | 0, _ => []
  | n + 1, r =>
    let w := s.actRow t a r
    w :: (if bitOf w 3 then s.actRows t a n (r + 1) else [])

/-! ## Lanes (R256, R262, R264) -/

def Lane.empty : Lane := ⟨.free, 0, 0, 0, [], [], 0, [], true, false⟩

/-- The effect of one action row at offset `e`: `none` where an empty record's END gives no offset. -/
def Lane.act (l : Lane) (maxRep aut row : Nat) (e : Option Nat) (free : Nat) : Lane :=
  let off := e.getD free
  let l := if bitOf row 0 then
      { l with total := l.total + 1, reports := if l.total < maxRep then l.reports ++ [⟨off, aut, row⟩] else l.reports }
    else l
  let l := match e with
    | some e =>
      if bitOf row 1 then
        let span := bitsOf row 8 8
        { l with marks := l.marks ++ [(e + 1 - span, min span (e + 1))] }
      else l
    | none => l
  if bitOf row 2 then { l with keep := false } else l

/-- One automaton's step on a lane: every bank of it searched, the next state taken, its actions applied (R253, R256). -/
def State.autStep (s : State) (k : OpKey) (o : Op) (flips : List SlotFlip) (l : Lane) (i id : Nat) (byte : Option Nat)
    (e : Option Nat) : State × Lane :=
  let tiles := o.tiles
  let plan := s.autPlan tiles id
  let banks := (plan.map (·.banks)).getD []
  let src := s.tileIsland (posTile tiles (nth banks 0 0))
  let state := nth l.states 0 i
  let found := (sortBy (fun a b => decide (a ≤ b)) banks).map fun b =>
    let t := posTile tiles b
    let cls := match plan with
      | some a => s.classOf t a byte
      | none => 0
    (b, ((s.tile t).flipped t flips).search (patKey state cls id))
  let s := found.foldl (fun s f => s.modTile (posTile tiles f.1) fun x =>
    let x := (x.counted f.2).inc TReg.PAT_TILE_COUNT.SEARCHES 1
    if f.2.hit then x else x.inc TReg.PAT_TILE_COUNT.MISSES 1) s
  let hits := found.filter fun f => f.2.hit
  let bad := fun (s : State) (typ : Nat) =>
    (s.wr Reg.FILTAS_PAT_STATUS.BAD_SEEN 1).note typ 4 src (some k.ctx) [(8, l.num), (2, id)]
  match hits with
  | [] => (bad s Ev.PATTERN_MISS, { l with bad := true, states := setAt l.states i 0 })
  | w :: more =>
    let s := if more.isEmpty then s else bad s Ev.PATTERN_MULTI
    let l := { l with bad := l.bad || !more.isEmpty, states := setAt l.states i w.2.leaf }
    match plan with
    | none => (s, l)
    | some a =>
      if w.2.leaf < a.acceptBase then (s, l)
      else
        let rows := s.actRows (posTile tiles w.1) a (0x10000 - w.2.leaf) (w.2.leaf - a.acceptBase)
        let maxRep := o.num 11 + 1
        let l' := rows.foldl (fun l row => l.act maxRep id row e ((Config.freeWord s.free).toNat % 2 ^ 32)) l
        let surplus := (l'.total - maxRep) - (l.total - maxRep)
        let s := if surplus = 0 then s
          else
            let s := (s.inc Reg.FILTAS_PAT_COUNT1.TRUNC_REPORTS surplus).wr Reg.FILTAS_PAT_STATUS.TRUNC_SEEN 1
            if maxRep < l.total then s else s.note Ev.PATTERN_TRUNC 4 src (some k.ctx) [(8, l.num), (2, id)]
        ({ s with free := s.free + 1 }, l')

/-! ## Streams -/

/-- A group with a held island waits (R262). -/
def State.groupHeld (s : State) (tiles : List Nat) : Bool := tiles.any s.heldTile

def State.patWork (s : State) (k : OpKey) : Option (Op × PatWork) :=
  match s.op? k with
  | some o => match o.work with
    | .pattern w => if o.st = .running then some (o, w) else none
    | _ => none
  | none => none

def State.setPat (s : State) (k : OpKey) (w : PatWork) : State := s.modOp k fun o => { o with work := .pattern w }

/-- Record `n` exists for the stream. -/
def State.patBefore (s : State) (o : Op) (w : PatWork) (n : Nat) : Bool :=
  let eos := s.readNat ((o.locOf 1).plus 8) 8
  (o.num 4 = 0 || decide (n < w.s0 + o.num 4)) && (!bitOf eos 63 || decide (n < seq48 eos))

/-- A stream whose last record has been written ends. -/
def State.patEnd (s : State) (k : OpKey) (o : Op) (w : PatWork) : State :=
  if w.flushed = w.next && !s.patBefore o w w.next then (s.clampFlips o.tiles w.flushed).completeOp k else s

/-- The TAIL of an output ring: sampled for a host ring, read for a device ring. -/
def State.outTail (s : State) (o : Op) (i sampled : Nat) : Nat :=
  match o.ref? i with
  | none => 0
  | some r => if r.loc.host then sampled else s.readNat (r.loc.plus 8) 8

/-- The accesses that reading the host TAIL words takes. -/
def Op.tailAccs (o : Op) : List Acc :=
  [8, 9, 12].filterMap fun i => match o.ref? i with
    | some r => if r.loc.host then some ⟨false, r.loc.plus 8, 8⟩ else none
    | none => none

def State.sampleTails (s : State) (o : Op) (w : PatWork) : PatWork :=
  let rd := fun i => match o.ref? i with
    | some r => s.readNat (r.loc.plus 8) 8
    | none => 0
  { w with outTail := rd 8, repTail := rd 9, sumTail := rd 12 }

/-- PATTERN: the stream begins at CONS with every lane free (R257). -/
def opPattern (k : OpKey) (errs : List MemErr) (s : State) : State :=
  match s.opIs k Cls.PATTERN 0 .running with
  | none => s
  | some o =>
    if o.work != .none then s
    else
      s.accessing k errs ([⟨false, o.locOf 1, 64⟩, ⟨false, o.locOf 5, 2 * (o.num 6 + 1)⟩] ++ o.tailAccs) fun s =>
        let s0 := seq48 (s.readNat ((o.locOf 1).plus 0x10) 8)
        s.setPat k (s.sampleTails o ⟨s0, s0, s0, 0, List.replicate (o.num 7 + 1) Lane.empty, none, 0, 0, 0⟩)

/-- The lowest free lane takes the next record (R258, R262). -/
def opLaneRecordStart (k : OpKey) (errs : List MemErr) (s : State) : State :=
  match s.patWork k with
  | none => s
  | some (o, w) =>
    let n := w.next
    let waits := o.tiles.any fun t => (s.tile t).edits.any fun e => match e.gate with
      | some g => decide (g ≤ n)
      | none => false
    if !s.patBefore o w n then s.patEnd k o w
    else
      match findPos (fun (l : Lane) => decide (l.st = .free)) w.lanes with
      | none => s
      | some j =>
        let loc := (o.locOf 1).plus (64 + o.patStride * (n % o.num 2))
        if waits || s.groupHeld o.tiles || seq48 (s.readNat (o.locOf 1) 8) ≤ n then s
        else
          s.accessing k errs [⟨false, o.locOf 1, 64⟩, ⟨false, loc, 8⟩] fun s =>
            let bytes := s.readNat loc 4
            let bad := decide (o.patStride - 8 < bytes)
            s.accessing k errs (if bad then [] else [⟨false, loc, 8 + bytes⟩]) fun s =>
              let l : Lane := { Lane.empty with
                st := .scan, num := n, bytes := if bad then 0 else bytes, bad := bad,
                states := List.replicate (o.num 6 + 1) 0 }
              let s := if bad then
                  (s.wr Reg.FILTAS_PAT_STATUS.BAD_SEEN 1).note Ev.PATTERN_BAD_RECORD 4 (s.tileIsland (nth o.tiles 0 0)) (some k.ctx)
                    [(8, n), (2, nth (s.autIds o) 0 0)]
                else s
              let s := if bad then s else s.streamed [⟨false, loc, 8 + bytes⟩]
              s.setPat k { w with next := n + 1, lanes := setAt w.lanes j l }

/-- A lane's next byte, or END after the last, searched in every automaton (R253, R256). -/
def opPatternByte (k : OpKey) (lane : Nat) (flips : List SlotFlip) (s : State) : State :=
  match s.patWork k with
  | none => s
  | some (o, w) =>
    match w.lanes[lane]? with
    | none => s
    | some l =>
      if l.st != .scan || s.groupHeld o.tiles then s
      else
        let loc := (o.locOf 1).plus (64 + o.patStride * (l.num % o.num 2))
        let last := decide (l.bytes ≤ l.offset)
        let byte := if last then none else some (s.readNat (loc.plus (8 + l.offset)) 1)
        let e := if last then (if l.bytes = 0 then none else some (l.bytes - 1)) else some l.offset
        let ids := s.autIds o
        let r := (List.range ids.length).foldl (fun (a : State × Lane) i => a.1.autStep k o flips a.2 i (nth ids 0 i) byte e) (s, l)
        let s := if last then r.1 else r.1.inc Reg.FILTAS_PAT_COUNT0.BYTES 1
        let l := if last then { r.2 with st := .flush } else { r.2 with offset := l.offset + 1 }
        s.setPat k { w with lanes := setAt w.lanes lane l }

/-! ## Outputs (R264 to R267) -/

def Report.bytes (r : Report) (num : Nat) : List Nat :=
  leBytes 8 (seq48 num + r.aut % 1024 * 2 ^ 48) ++ leBytes 4 r.e ++ leBytes 2 (bitsOf r.row 16 16) ++
  leBytes 2 (bitsOf r.row 8 8 + bitsOf r.row 1 1 * 2 ^ 8 + bitsOf r.row 2 1 * 2 ^ 9)

def Lane.kept (l : Lane) : Bool := l.keep && !l.bad

/-- The summary entry (R266). -/
def Lane.summary (l : Lane) (maxRep : Nat) : Nat :=
  b2n l.kept + b2n (!l.marks.isEmpty) * 2 + b2n (decide (maxRep < l.total)) * 4 + b2n l.bad * 8 + min l.total 0xFFFF * 2 ^ 16 +
  l.num % 2 ^ 32 * 2 ^ 32

/-- The scrubbed copy: header, and data with every marked byte replaced (R258, R265). -/
def Lane.scrubbed (l : Lane) (rec_ : List Nat) (bad : Bool) (fill : Nat) : List Nat :=
  let hdr := rec_.take 8
  if bad then [0, 0, 0, 0] ++ hdr.drop 4
  else
    hdr ++ (List.range l.bytes).map fun i =>
      if l.marks.any fun m => decide (m.1 ≤ i) && decide (i < m.1 + m.2) then fill else nth rec_ 0 (8 + i)

/-- A ring that has room for `n` more entries after `done`. -/
def roomIn (cap done tail n : Nat) : Bool := decide ((done + 2 ^ 64 - tail) % 2 ^ 64 + n ≤ cap)

/-- Each output ring has room for what a record brings. -/
def State.patRoom (s : State) (o : Op) (w : PatWork) (l : Lane) : Bool :=
  let done := l.num - w.s0
  ((o.ref? 8).isNone || roomIn (o.num 2) done (s.outTail o 8 w.outTail) 1) &&
  ((o.ref? 9).isNone || roomIn (o.num 10) w.reps (s.outTail o 9 w.repTail) l.reports.length) &&
  ((o.ref? 12).isNone || roomIn (o.num 2) done (s.outTail o 12 w.sumTail) 1)

/-- The outputs of the oldest record in FLUSH, then the DONE words, then CONS; a full ring stalls the stream. -/
def opLaneFlush (k : OpKey) (lane : Nat) (errs : List MemErr) (s : State) : State :=
  match s.patWork k with
  | none => s
  | some (o, w) =>
    match w.lanes[lane]? with
    | none => s
    | some l =>
      if l.st != .flush || l.num != w.flushed || s.groupHeld o.tiles then s
      else
        let out := o.ref? 8
        let rep := o.ref? 9
        let sum := o.ref? 12
        let done := l.num - w.s0
        let n := l.reports.length
        if !s.patRoom o w l then s.setPat k { w with stall := some (w.stall.getD s.now) }
        else
          let src := (o.locOf 1).plus (64 + o.patStride * (l.num % o.num 2))
          let rec_ := s.read src (8 + l.bytes)
          let tooLong := decide (o.patStride - 8 < leAt rec_ 0 4)
          let put := fun (r : Option Ref) (f : Loc → List (Loc × List Nat)) => match r with
            | some r => f r.loc
            | none => []
          let ws :=
            put out (fun p => [(p.plus (64 + o.patStride * (l.num % o.num 2)), l.scrubbed rec_ tooLong (o.num 13))]) ++
            put rep (fun p => (List.range n).map fun i =>
              (p.plus (64 + 16 * ((w.reps + i) % o.num 10)), (nth l.reports ⟨0, 0, 0⟩ i).bytes l.num)) ++
            put sum (fun p => [(p.plus (64 + 8 * (done % o.num 2)), leBytes 8 (l.summary (o.num 11 + 1)))]) ++
            put out (fun p => [(p, leBytes 8 (done + 1))]) ++ put rep (fun p => [(p, leBytes 8 (w.reps + n))]) ++
            put sum (fun p => [(p, leBytes 8 (done + 1))]) ++ [((o.locOf 1).plus 0x10, leBytes 8 (seq48 (l.num + 1)))]
          s.accessing k errs (writeAccs ws) fun s =>
            let s := s.writeAll ws
            let s := if rep.isSome then s.inc Reg.FILTAS_PAT_COUNT1.REPORTS n else s
            let s := s.inc Reg.FILTAS_PAT_COUNT2.REDACTED (b2n (!l.marks.isEmpty))
            let s := s.inc Reg.FILTAS_PAT_COUNT2.DROPPED (b2n (!l.kept))
            let s := s.stallEnds w.stall
            let w := { w with flushed := l.num + 1, reps := if rep.isSome then w.reps + n else w.reps, stall := none,
                              lanes := setAt w.lanes lane Lane.empty }
            let s := if out.isSome || sum.isSome then s.restartClock k else s
            (s.setPat k w).patEnd k o w

/-! ## The poll of a host ring's TAIL (R235, R267) -/

/-- A stalled stream reads its host rings' TAIL again; the stall ends at the first read that sees room (R245, R269). -/
def opRingTailPoll (k : OpKey) (errs : List MemErr) (s : State) : State :=
  match s.patWork k with
  | some (o, w) =>
    if w.stall.isNone then s
    else
      s.accessing k errs o.tailAccs fun s =>
        let w := s.sampleTails o w
        let room := match w.lanes.find? fun l => l.st = .flush && l.num = w.flushed with
          | some l => s.patRoom o w l
          | none => true
        if room then (s.stallEnds w.stall).setPat k { w with stall := none } else s.setPat k w
  | none =>
    match s.op? k, s.streamOf k with
    | some o, some x =>
      if o.num 10 != 0 || x.stall.isNone then s
      else s.readTail k errs (o.locOf 12) fun s t =>
        if s.ringRoom { x with tail := t } o then (s.stallEnds x.stall).modStream x fun x => { x with tail := t, stall := none }
        else s.modStream x fun x => { x with tail := t }
    | _, _ => s

def execRingTailPoll (k : OpKey) (errs : List MemErr) (s : State) : Out := .next (opRingTailPoll k errs s)
def execPattern (k : OpKey) (errs : List MemErr) (s : State) : Out := .next (opPattern k errs s)
def execLaneRecordStart (k : OpKey) (errs : List MemErr) (s : State) : Out := .next (opLaneRecordStart k errs s)
def execPatternByte (k : OpKey) (lane : Nat) (flips : List SlotFlip) (s : State) : Out := .next (opPatternByte k lane flips s)
def execLaneFlush (k : OpKey) (lane : Nat) (errs : List MemErr) (s : State) : Out := .next (opLaneFlush k lane errs s)

end Sys2Proof.Machine
end

