-- ==== Sys2Proof/Machine/RegAccess.lean ====
section
/-! DEFINITION. Host and Captain writes to any offset of BAR0 and BAR2: plain registers, the mailbox buffer, the MSI-X table,
and the registers whose writes act (R28 to R42, R410, R446, R462). -/

namespace Sys2Proof.Machine

/-- An 8-byte word after a write of it or of one of its halves. -/
def Wr.merge (w : Wr) (old : Nat) : Nat :=
  if w.wide then w.value else if w.hi then w.value + old % 2 ^ 32 else old / 2 ^ 32 * 2 ^ 32 + w.value

/-- The MSI-X table; a vector that is no longer masked sends what was pending (R446). -/
def State.msixWrite (s : State) (k : Nat) (w : Wr) : State :=
  let s := { s with msix := mapSet s.msix k (w.merge (s.msixWord k)) }
  let vec := k / 2
  if bitOf s.msixPend vec && !s.msixMasked vec then { s with msixPend := s.msixPend - 2 ^ vec }.send (.msix vec) else s

/-- MB_IN takes host writes while IN_BUSY is 0 (R462, R466). -/
def State.mbInWrite (s : State) (o : Nat) (w : Wr) : State :=
  if w.src != .host then s
  else if s.on Reg.MB_STATUS.IN_BUSY then s.wr Reg.MB_STATUS.REJECT 1
  else s.setCap fun c =>
    let buf := (c.mbIn ++ List.replicate 4096 0).take 4096
    { c with mbIn := patchBytes buf o (leBytes 8 (w.merge (leAt buf o 8))) }

/-- SC_JNL_CTRL: an enable samples the host ring's base and size (R396). -/
def opJnlCtrl (w : Wr) (s0 : State) : State :=
  let s := s0.writeAt Reg.SC_JNL_CTRL.EN.off w
  if s.on Reg.SC_JNL_CTRL.EN && !s0.on Reg.SC_JNL_CTRL.EN then
    s.setSc fun c => { c with jBase := 128 * s.rd Reg.SC_JNL_BASE.ADDR, jSizeLog2 := s.rd Reg.SC_JNL_CTRL.SIZE_LOG2 }
  else s

/-- LINK_DOMAIN: granted ports of the dimensions that it opens start to train (R409, R410). -/
def opLinkDomain (w : Wr) (s : State) : State :=
  (List.range 18).foldl State.grantLink (s.writeAt Reg.LINK_DOMAIN.DX.off w)

/-- The registers of the step controller whose writes R366 guards. -/
def stepRegs : List Nat := [Reg.SC_STEP.COUNT.off, Reg.SC_SEED_LO.SEED.off, Reg.SC_SEED_HI.SEED.off, Reg.SC_CTRL.TRAIN_CTX.off]

/-- The BAR0 registers whose writes act beyond their fields. -/
def actOf (off : Nat) : Option (Wr → State → State) :=
  if off = Reg.TW_CMD.GO.off then some opTwGo
  else if off = Reg.SUBQ_CTRL.EN.off then some opSubqCtrl
  else if off = Reg.SUBQ_TAIL.TAIL.off then some opSubqTailWrite
  else if off = Reg.SC_RESOLVE.COMMIT.off then some opScResolve
  else if stepRegs.contains off then some (opStepStateWrite off)
  else if off = Reg.GLOBAL_MODE.DET.off then some opDetWrite
  else if off = Reg.SC_JNL_CTRL.EN.off then some opJnlCtrl
  else if off = Reg.LINK_DOMAIN.DX.off then some opLinkDomain
  else if off = Reg.LINK_CTRL.JOIN.off then some opLinkCtrl
  else if off = Reg.REF_GRANT.LINK.off then some opRefGrantWrite
  else if off = Reg.REF_CLAMP.P_MAX_W.off then some opRefClampWrite
  else if off = Reg.REF_WDOG.KICK.off then some opWdogKick
  else if off = Reg.PWR_CTRL.CAP_W.off then some opCapWrite
  else if off = Reg.PWR_GATE.GO.off then some opPwrGate
  else if off = Reg.EVQ_CTRL.EN.off then some opEvqEnable
  else if off = Reg.FLT_TRC_CTRL.EN.off then some opTraceEnable
  else if off = Reg.MB_DOORBELL.IN.off then some opMbDoorbell
  else none

/-- The context whose SB_NOTIFY_CTRL lies at an offset of the map. -/
def notifyCtx? (off : Nat) : Option Nat :=
  if bar2 + 0x20 ≤ off && (off - bar2) % 4096 = 0x20 && (off - bar2) / 4096 < 4096 then some ((off - bar2) / 4096) else none

/-- A write that R29 accepts, at an 8-byte word of the map. -/
def State.mapWrite (s : State) (off : Nat) (w : Wr) : State :=
  if s.unreachable w.src off then s
  else if 0x18000 ≤ off && off < 0x18400 then (if w.src = .host then s.msixWrite ((off - 0x18000) / 8) w else s)
  else if 0x20000 ≤ off && off < 0x21000 then s.mbInWrite (off - 0x20000) w
  else
    match notifyCtx? off with
    | some c => opSbNotifyArm c w s
    | none =>
      match actOf off with
      | some f => f w s
      | none => s.writeAt off w

/-- A write of `size` bytes at an offset of BAR0 or BAR2: refused and counted, or applied (R29, R30). -/
def opRegWrite (bar off size : Nat) (w : Wr) (s : State) : State :=
  if accessOk off size then
    s.mapWrite ((if bar = 2 then bar2 else 0) + off / 8 * 8) { w with wide := size = 8, hi := off % 8 = 4 }
  else s.accessErr

def execRegWrite (bar off size : Nat) (w : Wr) (s : State) : Out := .next (opRegWrite bar off size w s)

end Sys2Proof.Machine
end

