-- ==== Sys2Proof/Machine/Dispatch.lean ====
section
/-! DEFINITION. The dispatch: one arm for each command. -/

namespace Sys2Proof.Machine

def exec (i : Instr) (s : State) : Host.Outcome State Fault Refusal :=
  match i with
  | .regWrite x0 x1 x2 x3 => Sys2Proof.Machine.execRegWrite x0 x1 x2 x3 s
  | .rateLimitWindowEnd x0 => Sys2Proof.Machine.execRateLimitWindowEnd x0 s
  | .bar4Read x0 x1 x2 => Sys2Proof.Machine.execBar4Read x0 x1 x2 s
  | .bar4Write x0 x1 x2 => Sys2Proof.Machine.execBar4Write x0 x1 x2 s
  | .twGo x0 => Sys2Proof.Machine.execTwGo x0 s
  | .twAccessDone x0 => Sys2Proof.Machine.execTwAccessDone x0 s
  | .tmaIcursorWrite x0 x1 x2 => Sys2Proof.Machine.execTmaIcursorWrite x0 x1 x2 s
  | .tmaIterDone x0 => Sys2Proof.Machine.execTmaIterDone x0 s
  | .subqEnable x0 => Sys2Proof.Machine.execSubqEnable x0 s
  | .subqDisable x0 => Sys2Proof.Machine.execSubqDisable x0 s
  | .subqTailWrite x0 => Sys2Proof.Machine.execSubqTailWrite x0 s
  | .descriptorCheck x0 => Sys2Proof.Machine.execDescriptorCheck x0 s
  | .bufferCheck x0 x1 x2 => Sys2Proof.Machine.execBufferCheck x0 x1 x2 s
  | .opStage x0 => Sys2Proof.Machine.execOpStage x0 s
  | .opDispatch x0 x1 => Sys2Proof.Machine.execOpDispatch x0 x1 s
  | .opComplete x0 => Sys2Proof.Machine.execOpComplete x0 s
  | .opTimeout x0 => Sys2Proof.Machine.execOpTimeout x0 s
  | .quietTimeout x0 => Sys2Proof.Machine.execQuietTimeout x0 s
  | .contextFault x0 x1 => Sys2Proof.Machine.execContextFault x0 x1 s
  | .contextQuiet x0 => Sys2Proof.Machine.execContextQuiet x0 s
  | .matmul x0 x1 => Sys2Proof.Machine.execMatmul x0 x1 s
  | .residueReplay x0 x1 => Sys2Proof.Machine.execResidueReplay x0 x1 s
  | .stealRequest x0 x1 => Sys2Proof.Machine.execStealRequest x0 x1 s
  | .stolenUnitResult x0 x1 x2 => Sys2Proof.Machine.execStolenUnitResult x0 x1 x2 s
  | .dispatch x0 x1 x2 => Sys2Proof.Machine.execDispatch x0 x1 x2 s
  | .vector x0 x1 x2 => Sys2Proof.Machine.execVector x0 x1 x2 s
  | .convert x0 x1 => Sys2Proof.Machine.execConvert x0 x1 s
  | .statsRecord x0 => Sys2Proof.Machine.execStatsRecord x0 s
  | .policyRecordScore x0 x1 x2 x3 => Sys2Proof.Machine.execPolicyRecordScore x0 x1 x2 x3 s
  | .shadowEntryDone x0 x1 x2 => Sys2Proof.Machine.execShadowEntryDone x0 x1 x2 s
  | .moveCopy x0 => Sys2Proof.Machine.execMoveCopy x0 s
  | .curateScore x0 x1 => Sys2Proof.Machine.execCurateScore x0 x1 s
  | .curatePattern x0 x1 => Sys2Proof.Machine.execCuratePattern x0 x1 s
  | .curateEntry x0 x1 => Sys2Proof.Machine.execCurateEntry x0 x1 s
  | .relay x0 x1 => Sys2Proof.Machine.execRelay x0 x1 s
  | .semSignal x0 => Sys2Proof.Machine.execSemSignal x0 s
  | .semWait x0 => Sys2Proof.Machine.execSemWait x0 s
  | .semaphoreTake x0 x1 x2 x3 => Sys2Proof.Machine.execSemaphoreTake x0 x1 x2 x3 s
  | .burstIssue x0 x1 x2 => Sys2Proof.Machine.execBurstIssue x0 x1 x2 s
  | .transferLanded x0 x1 x2 x3 => Sys2Proof.Machine.execTransferLanded x0 x1 x2 x3 s
  | .huddle x0 => Sys2Proof.Machine.execHuddle x0 s
  | .huddleRelease x0 x1 x2 => Sys2Proof.Machine.execHuddleRelease x0 x1 x2 s
  | .nop x0 => Sys2Proof.Machine.execNop x0 s
  | .tileConfig x0 x1 x2 => Sys2Proof.Machine.execTileConfig x0 x1 x2 s
  | .loadPolicy x0 x1 x2 => Sys2Proof.Machine.execLoadPolicy x0 x1 x2 s
  | .imageLoadDone x0 x1 x2 => Sys2Proof.Machine.execImageLoadDone x0 x1 x2 s
  | .tmaEdit x0 x1 => Sys2Proof.Machine.execTmaEdit x0 x1 s
  | .inval x0 x1 => Sys2Proof.Machine.execInval x0 x1 s
  | .write x0 x1 => Sys2Proof.Machine.execWrite x0 x1 s
  | .valid x0 x1 => Sys2Proof.Machine.execValid x0 x1 s
  | .pf x0 => Sys2Proof.Machine.execPf x0 s
  | .pfSel x0 => Sys2Proof.Machine.execPfSel x0 s
  | .flip x0 => Sys2Proof.Machine.execFlip x0 s
  | .auxWrite x0 => Sys2Proof.Machine.execAuxWrite x0 s
  | .tmaScrub x0 x1 x2 => Sys2Proof.Machine.execTmaScrub x0 x1 x2 s
  | .sramScrub x0 x1 x2 => Sys2Proof.Machine.execSramScrub x0 x1 x2 s
  | .hbmPatrolScrub x0 => Sys2Proof.Machine.execHbmPatrolScrub x0 s
  | .hbmRefresh x0 x1 => Sys2Proof.Machine.execHbmRefresh x0 x1 s
  | .score x0 x1 => Sys2Proof.Machine.execScore x0 x1 s
  | .scoreRecord x0 x1 x2 x3 x4 => Sys2Proof.Machine.execScoreRecord x0 x1 x2 x3 x4 s
  | .scoreResultDeliver x0 x1 => Sys2Proof.Machine.execScoreResultDeliver x0 x1 s
  | .ringTailPoll x0 x1 => Sys2Proof.Machine.execRingTailPoll x0 x1 s
  | .pattern x0 x1 => Sys2Proof.Machine.execPattern x0 x1 s
  | .laneRecordStart x0 x1 => Sys2Proof.Machine.execLaneRecordStart x0 x1 s
  | .patternByte x0 x1 x2 => Sys2Proof.Machine.execPatternByte x0 x1 x2 s
  | .laneFlush x0 x1 x2 => Sys2Proof.Machine.execLaneFlush x0 x1 x2 s
  | .reduceScatter x0 x1 => Sys2Proof.Machine.execReduceScatter x0 x1 s
  | .allReduce x0 x1 => Sys2Proof.Machine.execAllReduce x0 x1 s
  | .allGather x0 x1 => Sys2Proof.Machine.execAllGather x0 x1 s
  | .stragglerDeadline x0 x1 x2 => Sys2Proof.Machine.execStragglerDeadline x0 x1 x2 s
  | .stepCommit x0 => Sys2Proof.Machine.execStepCommit x0 s
  | .vote x0 => Sys2Proof.Machine.execVote x0 s
  | .voteDeadline => Sys2Proof.Machine.execVoteDeadline s
  | .decision x0 x1 x2 => Sys2Proof.Machine.execDecision x0 x1 x2 s
  | .decisionTimeout => Sys2Proof.Machine.execDecisionTimeout s
  | .scResolveCommit x0 => Sys2Proof.Machine.execScResolveCommit x0 s
  | .scResolveAbort x0 => Sys2Proof.Machine.execScResolveAbort x0 s
  | .stepStateWrite x0 x1 => Sys2Proof.Machine.execStepStateWrite x0 x1 s
  | .detWrite x0 => Sys2Proof.Machine.execDetWrite x0 s
  | .snapshot x0 x1 => Sys2Proof.Machine.execSnapshot x0 x1 s
  | .snapshotComplete x0 x1 x2 => Sys2Proof.Machine.execSnapshotComplete x0 x1 x2 s
  | .journalWrite => Sys2Proof.Machine.execJournalWrite s
  | .setShare x0 => Sys2Proof.Machine.execSetShare x0 s
  | .destroyContext x0 x1 => Sys2Proof.Machine.execDestroyContext x0 x1 s
  | .mapHandle x0 => Sys2Proof.Machine.execMapHandle x0 s
  | .unmapHandle x0 => Sys2Proof.Machine.execUnmapHandle x0 s
  | .packageFlitReceive x0 x1 x2 x3 => Sys2Proof.Machine.execPackageFlitReceive x0 x1 x2 x3 s
  | .flitReceive x0 x1 x2 x3 => Sys2Proof.Machine.execFlitReceive x0 x1 x2 x3 s
  | .retry x0 x1 x2 => Sys2Proof.Machine.execRetry x0 x1 x2 s
  | .linkSilence x0 => Sys2Proof.Machine.execLinkSilence x0 s
  | .portRetrain x0 => Sys2Proof.Machine.execPortRetrain x0 s
  | .portTrainingDone x0 x1 => Sys2Proof.Machine.execPortTrainingDone x0 x1 s
  | .downNotice x0 x1 => Sys2Proof.Machine.execDownNotice x0 x1 s
  | .heartbeatTimer => Sys2Proof.Machine.execHeartbeatTimer s
  | .heartbeat x0 x1 => Sys2Proof.Machine.execHeartbeat x0 x1 s
  | .mapTimer => Sys2Proof.Machine.execMapTimer s
  | .map x0 x1 x2 x3 => Sys2Proof.Machine.execMap x0 x1 x2 x3 s
  | .memberTimeout x0 => Sys2Proof.Machine.execMemberTimeout x0 s
  | .mapTimeout => Sys2Proof.Machine.execMapTimeout s
  | .linkJoin x0 => Sys2Proof.Machine.execLinkJoin x0 s
  | .join x0 x1 => Sys2Proof.Machine.execJoin x0 x1 s
  | .joinTimeout => Sys2Proof.Machine.execJoinTimeout s
  | .linkLeave x0 => Sys2Proof.Machine.execLinkLeave x0 s
  | .leaveDrained => Sys2Proof.Machine.execLeaveDrained s
  | .leave x0 => Sys2Proof.Machine.execLeave x0 s
  | .ready x0 x1 x2 => Sys2Proof.Machine.execReady x0 x1 x2 s
  | .data x0 x1 x2 x3 x4 x5 x6 => Sys2Proof.Machine.execData x0 x1 x2 x3 x4 x5 x6 s
  | .msgDone x0 x1 x2 => Sys2Proof.Machine.execMsgDone x0 x1 x2 s
  | .nack x0 x1 x2 => Sys2Proof.Machine.execNack x0 x1 x2 s
  | .rdmaWrite x0 x1 x2 x3 x4 x5 => Sys2Proof.Machine.execRdmaWrite x0 x1 x2 x3 x4 x5 s
  | .rdmaRead x0 x1 x2 x3 x4 x5 => Sys2Proof.Machine.execRdmaRead x0 x1 x2 x3 x4 x5 s
  | .send x0 x1 x2 => Sys2Proof.Machine.execSend x0 x1 x2 s
  | .ethNak x0 x1 => Sys2Proof.Machine.execEthNak x0 x1 s
  | .ethRetryExhausted x0 x1 => Sys2Proof.Machine.execEthRetryExhausted x0 x1 s
  | .ethLinkLost x0 => Sys2Proof.Machine.execEthLinkLost x0 s
  | .ethTrainingDone x0 => Sys2Proof.Machine.execEthTrainingDone x0 s
  | .refGrantWrite x0 => Sys2Proof.Machine.execRefGrantWrite x0 s
  | .refClampWrite x0 => Sys2Proof.Machine.execRefClampWrite x0 s
  | .refPowerSample x0 => Sys2Proof.Machine.execRefPowerSample x0 s
  | .sensorSample x0 x1 x2 => Sys2Proof.Machine.execSensorSample x0 x1 x2 s
  | .governorPeriod => Sys2Proof.Machine.execGovernorPeriod s
  | .ditherSlot => Sys2Proof.Machine.execDitherSlot s
  | .marginTrim x0 x1 => Sys2Proof.Machine.execMarginTrim x0 x1 s
  | .laneMarginCheck x0 x1 x2 x3 => Sys2Proof.Machine.execLaneMarginCheck x0 x1 x2 x3 s
  | .capWrite x0 => Sys2Proof.Machine.execCapWrite x0 s
  | .gateRequest x0 => Sys2Proof.Machine.execGateRequest x0 s
  | .islandDrainDone x0 => Sys2Proof.Machine.execIslandDrainDone x0 s
  | .ungateRequest x0 => Sys2Proof.Machine.execUngateRequest x0 s
  | .ungateRampDone x0 => Sys2Proof.Machine.execUngateRampDone x0 s
  | .pendingGenWrite x0 => Sys2Proof.Machine.execPendingGenWrite x0 s
  | .sbNotifyArm x0 x1 => Sys2Proof.Machine.execSbNotifyArm x0 x1 s
  | .evqEnable x0 => Sys2Proof.Machine.execEvqEnable x0 s
  | .evqRecordWrite => Sys2Proof.Machine.execEvqRecordWrite s
  | .coalesceWindowEnd x0 x1 x2 x3 => Sys2Proof.Machine.execCoalesceWindowEnd x0 x1 x2 x3 s
  | .hallAlarmSend => Sys2Proof.Machine.execHallAlarmSend s
  | .traceEnable x0 => Sys2Proof.Machine.execTraceEnable x0 s
  | .mbDoorbellIn x0 => Sys2Proof.Machine.execMbDoorbellIn x0 s
  | .mbAccept => Sys2Proof.Machine.execMbAccept s
  | .mbResponse => Sys2Proof.Machine.execMbResponse s
  | .mbDoorbellAck x0 => Sys2Proof.Machine.execMbDoorbellAck x0 s
  | .getVersion x0 => Sys2Proof.Machine.execGetVersion x0 s
  | .ctxCreate x0 => Sys2Proof.Machine.execCtxCreate x0 s
  | .ctxSetQuota x0 => Sys2Proof.Machine.execCtxSetQuota x0 s
  | .ctxSetTimeout x0 => Sys2Proof.Machine.execCtxSetTimeout x0 s
  | .qpCreate x0 => Sys2Proof.Machine.execQpCreate x0 s
  | .qpFree x0 => Sys2Proof.Machine.execQpFree x0 s
  | .imageCheck x0 x1 => Sys2Proof.Machine.execImageCheck x0 x1 s
  | .calConfig x0 => Sys2Proof.Machine.execCalConfig x0 s
  | .calRefit x0 => Sys2Proof.Machine.execCalRefit x0 s
  | .fwUpdate x0 x1 => Sys2Proof.Machine.execFwUpdate x0 x1 s
  | .fwSvnCommit x0 => Sys2Proof.Machine.execFwSvnCommit x0 s
  | .blackboxRead x0 => Sys2Proof.Machine.execBlackboxRead x0 s
  | .wdogKick x0 => Sys2Proof.Machine.execWdogKick x0 s
  | .wdogExpiry => Sys2Proof.Machine.execWdogExpiry s
  | .captainRestartDone x0 => Sys2Proof.Machine.execCaptainRestartDone x0 s
  | .whistle x0 => Sys2Proof.Machine.execWhistle x0 s
  | .wholeDeviceReset => Sys2Proof.Machine.execWholeDeviceReset s
  | .blackboxStore => Sys2Proof.Machine.execBlackboxStore s
  | .pwrgdRise x0 x1 => Sys2Proof.Machine.execPwrgdRise x0 x1 s
  | .railsUp => Sys2Proof.Machine.execRailsUp s
  | .pwrgdFall => Sys2Proof.Machine.execPwrgdFall s
  | .perstAssert => Sys2Proof.Machine.execPerstAssert s
  | .perstRelease => Sys2Proof.Machine.execPerstRelease s
  | .pcieHotReset => Sys2Proof.Machine.execPcieHotReset s
  | .fwVerifyDone x0 x1 x2 => Sys2Proof.Machine.execFwVerifyDone x0 x1 x2 s
  | .fitnessScanDone x0 x1 => Sys2Proof.Machine.execFitnessScanDone x0 x1 s
  | .pldmRequest x0 => Sys2Proof.Machine.execPldmRequest x0 s
  | .refusedRegisterRead x0 x1 x2 => Sys2Proof.Machine.execRefusedRegisterRead x0 x1 x2 s
  | .roceRetransmission x0 x1 => Sys2Proof.Machine.execRoceRetransmission x0 x1 s
  | .arpRequest x0 x1 => Sys2Proof.Machine.execArpRequest x0 x1 s
  | .priorityFlowControlFrame x0 x1 => Sys2Proof.Machine.execPriorityFlowControlFrame x0 x1 s

end Sys2Proof.Machine
end

