-- ==== Sys2Proof/Machine/Step.lean ====
section
/-! DEFINITION. One step: the command at the front of the queue, or a tick of the time base. -/

namespace Sys2Proof.Machine

/-- The block with one nanosecond more on its time base: what an empty queue leaves to do (log entry 14). The running time of
an op on a held island stands still (R328), a link port silent for 1 µs sends an IDLE flit (R404), and an alarm that the Referee's
ceiling keeps back is counted (R487). -/
def State.tick (s : State) : State := (State.idleFlits { s.pauseHeld with now := s.now + 1 }).throttle

/-- The command at the front runs on the rest of the queue; an empty queue lets the time base tick. -/
def step (s : State) : Host.Outcome State Fault Refusal :=
  match s.pending with
  | [] => .next s.tick
  | c :: rest => exec c { s with pending := rest }

/-- The command that a table word spells put at the front of the queue; the table gives no row any bits. -/
def State.withFetchWord (s : State) (nbits w : Nat) : State :=
  match decodeTableWord nbits w with
  | some c => { s with pending := c :: s.pending }
  | none => s

end Sys2Proof.Machine
end

