-- ==== Sys2Proof/Safety.lean ====
section
/-! DEFINITION. What the statements say of a state: memories in canonical form, where an op stands, and which parts of the
state a command may change. -/

namespace Sys2Proof.Machine

/-- Every tile's SRAM is in canonical form. -/
def State.sramWf (s : State) : Bool := s.tiles.all fun p => Memory.wf p.2.sram

/-- Device memory, host memory and every tile's SRAM keep the canonical form. -/
def State.memoriesWf (s : State) : Bool := Memory.wf s.hbm && Memory.wf s.hostMem && s.sramWf

/-- Bytes stored from an address: they read back, and every other byte reads as before. -/
def Memory.stored (m m' : Memory) (a : Nat) (bs : List Nat) : Prop :=
  m'.rdBytes a bs.length = bs.map (· % 256) ∧ ∀ i, i < a ∨ a + bs.length ≤ i → m'.rdByte i = m.rdByte i

/-- Every island that a neighbour holds is one that exists (R531). -/
def State.holdsNamed (s : State) : Bool := s.pwr.nbr.all fun e => islandExists e.1

/-- The op that a key names, whether or not a whistle sounds. -/
def State.opAt (s : State) (k : OpKey) : Option Op := (s.buf? k.ctx k.seq).bind fun b => b.op? k.id

/-- The op of a key stands at a stage of its way. -/
def State.opHas (s : State) (k : OpKey) (st : OpSt) : Prop := (s.opAt k).map Op.st = some st

/-- The op of a key has completed: it stands as done, or its buffer has left. -/
def State.opOver (s : State) (k : OpKey) : Prop := ∀ o, s.opAt k = some o → o.st = .done

/-- A host write of 8 bytes with nothing else in the same cycle. -/
def hostWrite (v : Nat) : Wr := ⟨.host, true, false, v, 0⟩

/-- Register blocks by the high bits of their offsets; every scoreboard page of BAR2 is one block. -/
def regBlock (key : Nat) : Nat := min (key / 2 ^ 22) 0x10000

def Blk.GLOBAL := 0x0
def Blk.HOST := 0x1
def Blk.MAILBOX := 0x3
def Blk.FRONT_END := 0x4
def Blk.CONTEXTS := 0x6
def Blk.STREAMS := 0x8
def Blk.FILTAS := 0x10
def Blk.POLICY := 0x20
def Blk.MEMORY := 0x40
def Blk.LINK := 0x80
def Blk.ETH := 0xC0
def Blk.POWER := 0x100
def Blk.FAULT := 0x120
def Blk.WHISTLE := 0x121
def Blk.REFEREE := 0x140
def Blk.STEP := 0x180
def Blk.WINDOW := 0x200
def Blk.SCOREBOARD := 0x10000

/-- The parts of the state that the frame statements tell apart. -/
inductive Part
  /-- device memory outside the trace ring; all of device memory; host memory; the bytes of every tile's SRAM -/
  | data | hbm | host | sram
  /-- tiles; poisoned sectors; rows with errors; contexts; front end; stream engine; step controller; images kept -/
  | tiles | poison | errors | contexts | frontEnd | streams | step | configs
  /-- link ports; Ethernet ports; the domain's map; queue pairs; events and alarms; the Captain; power; pins -/
  | link | eth | domain | qps | events | captain | power | pins
  /-- fitness map; failures recorded; the black box; the whistle's stop; MSI-X table; its pending bits; the tile window's
  access; WO1 fields written; what has been sent -/
  | fitness | failures | box | halt | msix | pendingBits | window | written | sent
  /-- the registers of a block -/
  | regs (block : Nat)
  deriving DecidableEq, Repr

/-- A part is the same in two states. -/
def Part.same (p : Part) (s t : State) : Prop :=
  match p with
  | .data => ∀ a, a < s.ev.trcBase ∨ s.ev.trcBase + 64 * 2 ^ s.ev.trcSizeLog2 ≤ a → t.hbm.rdByte a = s.hbm.rdByte a
  | .hbm => t.hbm = s.hbm
  | .host => t.hostMem = s.hostMem
  | .sram => ∀ k a, (t.tile k).sram.rdByte a = (s.tile k).sram.rdByte a
  | .tiles => t.tiles = s.tiles
  | .poison => t.poison = s.poison
  | .errors => t.ceRows = s.ceRows ∧ t.ueRows = s.ueRows
  | .contexts => t.ctxs = s.ctxs
  | .frontEnd => t.fe = s.fe
  | .streams => t.se = s.se
  | .step => t.sc = s.sc
  | .configs => t.configs = s.configs ∧ t.nextCfg = s.nextCfg
  | .link => t.link = s.link
  | .eth => t.eth = s.eth
  | .domain => t.dom = s.dom
  | .qps => t.qps = s.qps
  | .events => t.ev = s.ev
  | .captain => t.cap = s.cap
  | .power => t.pwr = s.pwr
  | .pins => t.pins = s.pins
  | .fitness => t.fit = s.fit ∧ t.bootSeq = s.bootSeq
  | .failures => t.fails = s.fails ∧ t.failsKept = s.failsKept
  | .box => t.box = s.box
  | .halt => t.stopped = s.stopped
  | .msix => t.msix = s.msix
  | .pendingBits => t.msixPend = s.msixPend
  | .window => t.tw = s.tw
  | .written => t.wo1 = s.wo1
  | .sent => t.sent = s.sent
  | .regs b => ∀ k, regBlock k = b → mapGet? t.regs k = mapGet? s.regs k

/-- What raising an event may change. -/
def Touch.event : List Part := [.hbm, .events, .poison, .regs Blk.FAULT]
/-- What completing an op may change. -/
def Touch.complete : List Part := Touch.event ++ [.tiles, .frontEnd, .streams, .pendingBits, .sent, .regs Blk.SCOREBOARD]
/-- What a class Q fault of an op may change. -/
def Touch.opFault : List Part := Touch.complete ++
  [.contexts, .step, .regs Blk.FRONT_END, .regs Blk.FILTAS, .regs Blk.STEP]
/-- What an op that reads memory may change before its own effect. -/
def Touch.access : List Part := Touch.opFault ++
  [.errors, .failures, .regs Blk.STREAMS, .regs Blk.MEMORY, .regs Blk.REFEREE]
/-- What an op that writes memory may change. -/
def Touch.effect : List Part := Touch.access ++ [.data, .host]
/-- What a class D fault may change. -/
def Touch.classD : List Part := Touch.event ++
  [.pins, .box, .halt, .sent, .regs Blk.GLOBAL, .regs Blk.WHISTLE, .regs Blk.STEP]
/-- What a register write may change beside its own register. -/
def Touch.register : List Part := Touch.event ++ [.written, .regs Blk.GLOBAL, .regs Blk.HOST]
/-- The commands that may change registers of any block: the resets, and register writes at an offset of their own. -/
def anyRegs (c : Instr) : Bool :=
  match c with
  | .regWrite _ _ _ _ => true
  | .stepStateWrite off _ => !stepRegs.contains off
  | .wholeDeviceReset => true
  | .pwrgdFall => true
  | .perstAssert => true
  | .pcieHotReset => true
  | _ => false

def Part.isRegs : Part → Bool
  | .regs _ => true
  | _ => false

/-- What a command may change of every state: the frame is all the rest. -/
def touches (c : Instr) : List Part :=
  match c with
  | .regWrite _ _ _ _ => [.data, .hbm, .host, .tiles, .poison, .contexts, .frontEnd, .streams, .step, .link, .qps, .events, .captain, .power, .msix, .pendingBits, .window, .written, .sent, .domain]
  | .rateLimitWindowEnd _ => [.events]
  | .bar4Read _ _ _ => Touch.event ++ [.errors, .failures, .sent, .regs Blk.MEMORY]
  | .bar4Write _ _ _ => Touch.event ++ [.data, .errors, .failures, .regs Blk.MEMORY]
  | .twGo _ => Touch.register ++ [.window, .regs Blk.WINDOW]
  | .twAccessDone _ => Touch.opFault ++ [.sram, .failures, .window, .regs Blk.MEMORY, .regs Blk.WINDOW]
  | .tmaIcursorWrite _ _ _ => [.tiles]
  | .tmaIterDone _ => [.tiles]
  | .subqEnable _ => Touch.register ++ [.frontEnd, .regs Blk.FRONT_END]
  | .subqDisable _ => Touch.register ++ [.frontEnd, .regs Blk.FRONT_END]
  | .subqTailWrite _ => Touch.register ++ [.regs Blk.FRONT_END]
  | .descriptorCheck _ => Touch.opFault ++ [.regs Blk.REFEREE]
  | .bufferCheck _ _ _ => Touch.access
  | .opStage _ => Touch.opFault
  | .opDispatch _ _ => Touch.access
  | .opComplete _ => Touch.complete
  | .opTimeout _ => Touch.classD
  | .quietTimeout _ => Touch.classD
  | .contextFault _ _ => Touch.opFault ++ [.failures, .regs Blk.STREAMS, .regs Blk.MEMORY, .regs Blk.LINK]
  | .contextQuiet _ => Touch.complete ++ [.data, .host, .contexts, .qps]
  | .matmul _ _ => Touch.effect ++ [.regs Blk.POLICY]
  | .residueReplay _ _ => Touch.classD ++ [.tiles, .failures]
  | .stealRequest _ _ => [.tiles, .frontEnd]
  | .stolenUnitResult _ _ _ => [.frontEnd]
  | .dispatch _ _ _ => Touch.effect
  | .vector _ _ _ => Touch.effect ++ [.regs Blk.POLICY]
  | .convert _ _ => Touch.effect ++ [.regs Blk.POLICY]
  | .statsRecord _ => [.tiles]
  | .policyRecordScore _ _ _ _ => Touch.effect ++ [.regs Blk.POLICY]
  | .shadowEntryDone _ _ _ => Touch.event ++ [.data, .host, .tiles, .regs Blk.POLICY, .regs Blk.MEMORY, .errors, .failures]
  | .moveCopy _ => [.frontEnd, .streams, .regs Blk.STREAMS]
  | .curateScore _ _ => Touch.access
  | .curatePattern _ _ => Touch.access
  | .curateEntry _ _ => Touch.effect
  | .relay _ _ => Touch.access ++ [.sram]
  | .semSignal _ => Touch.opFault ++ [.regs Blk.STREAMS]
  | .semWait _ => [.frontEnd, .streams, .regs Blk.STREAMS]
  | .semaphoreTake _ _ _ _ => Touch.complete
  | .burstIssue _ _ _ => Touch.access ++ Touch.classD
  | .transferLanded _ _ _ _ => Touch.effect
  | .huddle _ => [.frontEnd]
  | .huddleRelease _ _ _ => Touch.complete ++ [.regs Blk.STREAMS]
  | .nop _ => Touch.complete
  | .tileConfig _ _ _ => Touch.access ++ [.configs]
  | .loadPolicy _ _ _ => Touch.access ++ [.configs]
  | .imageLoadDone _ _ _ => Touch.opFault ++ [.sram, .failures, .regs Blk.POLICY]
  | .tmaEdit _ _ => Touch.access
  | .inval _ _ => Touch.opFault
  | .write _ _ => Touch.opFault
  | .valid _ _ => Touch.opFault
  | .pf _ => Touch.opFault
  | .pfSel _ => Touch.opFault
  | .flip _ => Touch.opFault
  | .auxWrite _ => Touch.opFault ++ [.sram]
  | .tmaScrub _ _ _ => Touch.opFault
  | .sramScrub _ _ _ => Touch.opFault ++ [.failures, .regs Blk.MEMORY]
  | .hbmPatrolScrub _ => Touch.event ++ [.errors, .failures, .regs Blk.MEMORY]
  | .hbmRefresh _ _ => []
  | .score _ _ => Touch.access
  | .scoreRecord _ _ _ _ _ => Touch.access ++ [.regs Blk.FILTAS]
  | .scoreResultDeliver _ _ => Touch.effect ++ [.regs Blk.FILTAS]
  | .ringTailPoll _ _ => Touch.access
  | .pattern _ _ => Touch.access
  | .laneRecordStart _ _ => Touch.access ++ [.regs Blk.FILTAS]
  | .patternByte _ _ _ => Touch.event ++ [.tiles, .frontEnd, .regs Blk.FILTAS]
  | .laneFlush _ _ _ => Touch.effect ++ [.regs Blk.FILTAS]
  | .reduceScatter _ _ => Touch.effect ++ [.link, .domain, .regs Blk.LINK]
  | .allReduce _ _ => Touch.effect ++ [.link, .domain, .regs Blk.LINK]
  | .allGather _ _ => Touch.effect ++ [.link, .domain, .regs Blk.LINK]
  | .stragglerDeadline _ _ _ => Touch.effect ++ [.link, .regs Blk.LINK]
  | .stepCommit _ => Touch.opFault ++ [.data, .host, .link, .domain, .regs Blk.POLICY, .regs Blk.MEMORY, .regs Blk.LINK]
  | .vote _ => Touch.opFault ++ [.data, .host, .link, .domain, .regs Blk.POLICY, .regs Blk.MEMORY, .regs Blk.LINK]
  | .voteDeadline => Touch.opFault ++ [.data, .host, .link, .domain, .regs Blk.POLICY, .regs Blk.MEMORY, .regs Blk.LINK]
  | .decision _ _ _ => Touch.opFault ++ [.data, .host, .regs Blk.POLICY, .regs Blk.MEMORY]
  | .decisionTimeout => Touch.opFault
  | .scResolveCommit _ => Touch.opFault ++ Touch.register ++ [.data, .host, .regs Blk.POLICY, .regs Blk.MEMORY]
  | .scResolveAbort _ => Touch.opFault ++ Touch.register ++ [.data, .host, .regs Blk.POLICY, .regs Blk.MEMORY]
  | .stepStateWrite _ _ => Touch.register ++ [.frontEnd, .step, .regs Blk.STEP]
  | .detWrite _ => Touch.register ++ [.step]
  | .snapshot _ _ => Touch.access
  | .snapshotComplete _ _ _ => Touch.effect ++ [.regs Blk.POLICY]
  | .journalWrite => Touch.complete ++ [.data, .host, .step, .regs Blk.POLICY, .regs Blk.MEMORY, .regs Blk.REFEREE, .regs Blk.STEP]
  | .setShare _ => Touch.complete ++ [.contexts, .regs Blk.FRONT_END]
  | .destroyContext _ _ => Touch.opFault
  | .mapHandle _ => Touch.complete
  | .unmapHandle _ => Touch.complete
  | .packageFlitReceive _ _ _ _ => Touch.classD ++ [.failures]
  | .flitReceive _ _ _ _ => Touch.event ++ [.link, .failures, .sent, .regs Blk.LINK]
  | .retry _ _ _ => Touch.event ++ [.link, .sent, .regs Blk.LINK]
  | .linkSilence _ => Touch.event ++ [.link, .failures, .sent, .regs Blk.LINK]
  | .portRetrain _ => []
  | .portTrainingDone _ _ => Touch.event ++ [.link, .regs Blk.LINK]
  | .downNotice _ _ => Touch.opFault ++ [.data, .host, .link, .domain, .failures, .regs Blk.POLICY, .regs Blk.MEMORY, .regs Blk.LINK]
  | .heartbeatTimer => Touch.opFault ++ [.link, .domain, .regs Blk.LINK]
  | .heartbeat _ _ => Touch.opFault ++ [.link, .domain, .regs Blk.LINK]
  | .mapTimer => Touch.opFault ++ [.link, .domain, .regs Blk.LINK]
  | .map _ _ _ _ => Touch.opFault ++ [.link, .domain, .regs Blk.LINK]
  | .memberTimeout _ => Touch.opFault ++ [.data, .host, .link, .domain, .regs Blk.POLICY, .regs Blk.MEMORY, .regs Blk.LINK]
  | .mapTimeout => Touch.opFault ++ [.link, .domain, .regs Blk.LINK]
  | .linkJoin _ => Touch.register ++ [.sent, .regs Blk.LINK, .domain]
  | .join _ _ => [.domain]
  | .joinTimeout => Touch.opFault ++ [.link, .domain, .regs Blk.LINK]
  | .linkLeave _ => Touch.register ++ [.sent, .regs Blk.LINK, .domain]
  | .leaveDrained => [.link, .domain, .sent, .regs Blk.LINK]
  | .leave _ => Touch.opFault ++ [.data, .host, .link, .domain, .regs Blk.POLICY, .regs Blk.MEMORY, .regs Blk.LINK]
  | .ready _ _ _ => Touch.opFault ++ [.data, .host, .link, .domain, .regs Blk.LINK]
  | .data _ _ _ _ _ _ _ => Touch.effect ++ [.link, .regs Blk.LINK]
  | .msgDone _ _ _ => [.frontEnd, .regs Blk.LINK]
  | .nack _ _ _ => Touch.opFault ++ [.regs Blk.STREAMS, .regs Blk.LINK]
  | .rdmaWrite _ _ _ _ _ _ => Touch.opFault ++ [.data, .host, .qps, .regs Blk.LINK, .regs Blk.ETH, .regs Blk.REFEREE, .errors, .failures, .regs Blk.MEMORY]
  | .rdmaRead _ _ _ _ _ _ => Touch.opFault ++ [.qps, .regs Blk.MEMORY, .regs Blk.LINK, .regs Blk.ETH, .regs Blk.REFEREE, .errors, .failures]
  | .send _ _ _ => [.qps, .sent]
  | .ethNak _ _ => Touch.opFault ++ [.qps, .regs Blk.LINK, .regs Blk.ETH]
  | .ethRetryExhausted _ _ => Touch.opFault ++ [.qps, .regs Blk.LINK]
  | .ethLinkLost _ => Touch.opFault ++ [.eth, .qps, .failures, .regs Blk.LINK, .regs Blk.ETH]
  | .ethTrainingDone _ => [.regs Blk.ETH]
  | .refGrantWrite _ => Touch.opFault ++ Touch.register ++ [.link, .qps, .regs Blk.LINK, .regs Blk.ETH, .regs Blk.REFEREE]
  | .refClampWrite _ => Touch.register ++ [.regs Blk.REFEREE]
  | .refPowerSample _ => Touch.classD ++ [.power, .regs Blk.POWER, .regs Blk.REFEREE]
  | .sensorSample _ _ _ => Touch.classD ++ [.power, .regs Blk.POWER, .regs Blk.REFEREE, .regs Blk.MEMORY]
  | .governorPeriod => Touch.event ++ [.power, .regs Blk.POWER]
  | .ditherSlot => [.power, .regs Blk.POWER]
  | .marginTrim _ _ => [.power, .regs Blk.POWER]
  | .laneMarginCheck _ _ _ _ => Touch.event
  | .capWrite _ => Touch.register ++ [.regs Blk.FRONT_END, .regs Blk.POWER]
  | .gateRequest _ => Touch.register ++ [.power, .regs Blk.POWER]
  | .islandDrainDone _ => Touch.event ++ [.sram, .tiles, .power, .regs Blk.POWER]
  | .ungateRequest _ => Touch.register ++ [.power, .regs Blk.POWER]
  | .ungateRampDone _ => Touch.event ++ [.power, .regs Blk.POWER]
  | .pendingGenWrite _ => Touch.register ++ [.regs Blk.POLICY]
  | .sbNotifyArm _ _ => Touch.register ++ [.pendingBits, .sent, .regs Blk.SCOREBOARD]
  | .evqEnable _ => Touch.register
  | .evqRecordWrite => Touch.event ++ [.host, .pendingBits, .sent, .regs Blk.HOST, .regs Blk.REFEREE]
  | .coalesceWindowEnd _ _ _ _ => [.events]
  | .hallAlarmSend => [.events, .sent]
  | .traceEnable _ => Touch.register
  | .mbDoorbellIn _ => Touch.register ++ [.regs Blk.MAILBOX]
  | .mbAccept => [.captain, .regs Blk.MAILBOX]
  | .mbResponse => [.captain, .pendingBits, .sent, .regs Blk.MAILBOX]
  | .mbDoorbellAck _ => Touch.register ++ [.regs Blk.MAILBOX]
  | .getVersion _ => [.captain]
  | .ctxCreate _ => [.contexts, .captain, .regs Blk.SCOREBOARD]
  | .ctxSetQuota _ => Touch.event ++ [.contexts, .captain, .regs Blk.FRONT_END]
  | .ctxSetTimeout _ => [.contexts, .captain]
  | .qpCreate _ => [.streams, .qps, .captain]
  | .qpFree _ => [.streams, .qps, .captain]
  | .imageCheck _ _ => [.captain]
  | .calConfig _ => [.captain, .regs Blk.POLICY]
  | .calRefit _ => [.data, .hbm, .host, .poison, .captain, .regs Blk.POLICY]
  | .fwUpdate _ _ => [.captain]
  | .fwSvnCommit _ => [.captain]
  | .blackboxRead _ => [.captain]
  | .wdogKick _ => Touch.register ++ [.captain, .regs Blk.REFEREE]
  | .wdogExpiry => Touch.classD ++ [.regs Blk.MAILBOX, .regs Blk.REFEREE]
  | .captainRestartDone _ => Touch.classD ++ [.captain, .regs Blk.MAILBOX, .regs Blk.REFEREE]
  | .whistle _ => Touch.classD ++ [.failures]
  | .wholeDeviceReset => [.sram, .tiles, .errors, .contexts, .frontEnd, .streams, .step, .configs, .link, .eth, .domain, .qps, .events, .captain, .power, .pins, .halt, .msix, .pendingBits, .window, .written, .data, .hbm, .host]
  | .blackboxStore => Touch.event ++ [.pins, .fitness, .failures, .box]
  | .pwrgdRise _ _ => [.pins, .regs Blk.GLOBAL]
  | .railsUp => [.pins, .regs Blk.GLOBAL, .regs Blk.HOST]
  | .pwrgdFall => [.data, .hbm, .sram, .tiles, .poison, .errors, .contexts, .frontEnd, .streams, .step, .configs, .link, .eth, .domain, .qps, .events, .captain, .power, .pins, .fitness, .failures, .box, .halt, .msix, .pendingBits, .window, .written]
  | .perstAssert => [.sram, .tiles, .errors, .contexts, .frontEnd, .streams, .step, .configs, .link, .eth, .domain, .qps, .events, .captain, .power, .pins, .halt, .msix, .pendingBits, .window, .written, .data, .hbm, .host]
  | .perstRelease => [.pins, .regs Blk.GLOBAL, .regs Blk.HOST]
  | .pcieHotReset => [.sram, .tiles, .errors, .contexts, .frontEnd, .streams, .step, .configs, .link, .eth, .domain, .qps, .events, .captain, .power, .pins, .halt, .msix, .pendingBits, .window, .written, .data, .hbm, .host]
  | .fwVerifyDone _ _ _ => Touch.event ++ [.captain, .regs Blk.GLOBAL, .regs Blk.MAILBOX]
  | .fitnessScanDone _ _ => [.data, .hbm, .poison, .errors, .captain, .fitness, .failures, .regs Blk.GLOBAL, .regs Blk.MAILBOX, .regs Blk.MEMORY, .regs Blk.LINK, .regs Blk.ETH, .regs Blk.POWER, .regs Blk.REFEREE]
  | .pldmRequest _ => [.sent]
  | .refusedRegisterRead _ _ _ => [.sent, .regs Blk.HOST]
  | .roceRetransmission _ _ => [.regs Blk.ETH]
  | .arpRequest _ _ => [.sent]
  | .priorityFlowControlFrame _ _ => [.eth]

/-- A command leaves a part of every state as it was. -/
def leaves (c : Instr) (p : Part) : Bool := !(touches c).contains p && !(p.isRegs && anyRegs c)

end Sys2Proof.Machine
end

