-- ==== Sys2Proof/WellFormed.lean ====
section
/-! DEFINITION. Which commands the world outside the block can bring: every operand in the range that its field, its port, its
tile or its register gives it. The meanings are total all the same; nothing depends on these checks but the statements. -/

namespace Sys2Proof

namespace Machine

/-- A list of bytes. -/
def bytesOk (bs : List Nat) : Bool := bs.all fun b => decide (b < 256)

/-- A write of 8 bytes, or of 4 bytes to one half (R29, R30). -/
def Wr.wf (w : Wr) : Bool :=
  decide (w.data < if w.wide then 2 ^ 64 else 2 ^ 32) && !(w.wide && w.hi) && decide (w.same < 2 ^ 64)

/-- An execution context, a buffer sequence number and an op identity (R294, R300, R307). -/
def OpKey.wf (k : OpKey) : Bool := decide (k.ctx < 4096) && decide (k.seq < 2 ^ 64) && decide (k.id < 65536)

def tileOk (t : Nat) : Bool := decide (t < 131072)

/-- A sector's device address and a row number (R277, R284), with symbols of one code word (R279); or a byte address of a
tile's SRAM, with bits of one word (R285). -/
def MemErr.wf (e : MemErr) : Bool :=
  decide (e.addr < 2 ^ 48) && decide (e.row < 2 ^ 32) && e.syms.all (fun i => decide (i < 64)) && e.tile.all tileOk

def TwErr.wf (e : TwErr) : Bool := decide (e.k < 8) && decide (e.bad < 8)

/-- A slot of a bank and a word of it (R181, R182). -/
def SlotErr.wf (e : SlotErr) : Bool := decide (e.slot < 512) && decide (e.bad < 5)

/-- Bits of a slot's fields (R182, R183). -/
def SlotFlip.wf (f : SlotFlip) : Bool :=
  tileOk f.tile && decide (f.slot < 512) && decide (f.key < 2 ^ 128) && decide (f.mask < 2 ^ 128) &&
  decide (f.leaf < 65536) && decide (f.gen < 256)

/-- What one residue check sees: 32 elements of a side, four sums D_j, significands of 8 bits (R118). -/
def PairCheck.wf : PairCheck → Bool
  | .q4 ta tb d => decide (ta.length = 32) && decide (tb.length = 32) && decide (d.length = 4)
  | .fp8 a b _ => decide (a.length = 32) && decide (b.length = 32)
  | .bf16 pairs => pairs.all fun p => decide (p.1 < 256) && decide (p.2.1 < 256) && decide (p.2.2 < 65536)

def ctxOk (c : Nat) : Bool := decide (c < 4096)
def linkPortOk (p : Nat) : Bool := decide (p < 18)
def ethPortOk (p : Nat) : Bool := decide (p < 6)
def qpnOk (q : Nat) : Bool := decide (1 ≤ q) && decide (q < 16386)
def moduleOk (m : Nat) : Bool := decide (m < 4096)
def rankOk (r : Nat) : Bool := decide (r < 4096)
def tagOk (t : Nat) : Bool := decide (t < 2 ^ 32)
def word64 (v : Nat) : Bool := decide (v < 2 ^ 64)

/-- An island ID that names an island (R9). -/
def islandOk (n : Nat) : Bool :=
  decide (n < 512 && n % 32 < 20) || decide (512 ≤ n && n < 640 && n % 32 < 4)

/-- A fault as its record carries it (R447, R496). -/
def FaultIn.wf (f : FaultIn) : Bool :=
  decide (f.typ < 65536) && decide (f.duty < 8) && islandOk f.src && decide (f.payload.length ≤ 32) && bytesOk f.payload

/-- A segment holds bytes; its settings are checked by the load. -/
def TileSeg.wf (g : TileSeg) : Bool := bytesOk g.sram && decide (g.sramSize ≤ 131072) && g.entries.all fun e => decide (e.leaf < 65536)

def Image.wf (i : Image) : Bool :=
  decide (1 ≤ i.segs.length) && decide (i.segs.length ≤ 5120) && i.segs.all TileSeg.wf && decide (i.kind < 256) &&
  decide (i.gen < 256) && decide (i.crc < 2 ^ 32) && decide (i.errOffset < 2 ^ 32)

/-- The fields of a firmware header have their sizes (R475). -/
def FwHead.wf (h : FwHead) : Bool :=
  decide (h.hdrVersion < 65536) && decide (h.keyIndex < 256) && decide (h.version < 2 ^ 32) && decide (h.build < 2 ^ 32) &&
  decide (h.svn < 256) && decide (h.length < 2 ^ 32)

def Vote.wf (v : Vote) : Bool := moduleOk v.member && word64 v.step && decide (v.scope < 2) && decide (v.epoch < 2 ^ 32)

/-- Four junction sensors per compute island (R537); a reading fits its field (R546). -/
def IslandReading.wf (r : IslandReading) : Bool :=
  islandOk r.island && decide (r.mv < 1024) && decide (r.temps.length ≤ 4) && decide (1 ≤ r.temps.length) &&
  r.temps.all fun t => decide (t < 128)

def ScanFinding.wf (x : ScanFinding) : Bool :=
  x.tiles.all tileOk && x.dies.all (fun d => decide (d < 16)) && x.stackIds.all (fun k => decide (k < 12)) &&
  x.hubs.all (fun h => decide (h < 3)) &&
  decide (x.links.length ≤ 18) && x.links.all (fun v => decide (v ≤ 2)) && decide (x.eths.length ≤ 6) &&
  x.eths.all fun v => decide (v ≤ 2)

def TrainResult.wf : TrainResult → Bool
  | .up m => moduleOk m
  | .miswired m => moduleOk m
  | .noPeer => true

/-- The access lies in a BAR that holds registers: 64 MiB of BAR0 or 16 MiB of BAR2 (R27). -/
def barOk (b off : Nat) : Bool := b = 0 && decide (off < 2 ^ 26) || b = 2 && decide (off < 2 ^ 24)

end Machine

open Machine

/-- A command that the world outside the block can bring. -/
def Instr.wf : Instr → Bool
  | .regWrite bar off _ w => barOk bar off && w.wf
  | .rateLimitWindowEnd _ => true
  | .bar4Read off size errs => decide (off + size ≤ 2 ^ 36) && decide (size ≤ 4096) && errs.all MemErr.wf
  | .bar4Write off bytes errs => decide (off + bytes.length ≤ 2 ^ 36) && decide (bytes.length ≤ 4096) && bytesOk bytes && errs.all MemErr.wf
  | .twGo w => w.wf
  | .twAccessDone errs => errs.all TwErr.wf
  | .tmaIcursorWrite tile k flips => tileOk tile && decide (k < 1024) && flips.all SlotFlip.wf
  | .tmaIterDone tile => tileOk tile
  | .subqEnable w => w.wf
  | .subqDisable w => w.wf
  | .subqTailWrite w => w.wf
  | .descriptorCheck _ => true
  | .bufferCheck imgs _ errs => imgs.all (fun i => i.2.wf) && errs.all MemErr.wf
  | .opStage key => key.wf
  | .opDispatch key errs => key.wf && errs.all MemErr.wf
  | .opComplete key => key.wf
  | .opTimeout key => key.wf
  | .quietTimeout ctx => ctxOk ctx
  | .contextFault ctx cause => ctxOk ctx && cause.wf
  | .contextQuiet ctx => ctxOk ctx
  | .matmul key errs => key.wf && errs.all MemErr.wf
  | .residueReplay tile chk => tileOk tile && chk.wf
  | .stealRequest key _ => key.wf
  | .stolenUnitResult key _ _ => key.wf
  | .dispatch key flips errs => key.wf && flips.all SlotFlip.wf && errs.all MemErr.wf
  | .vector key _ errs => key.wf && errs.all MemErr.wf
  | .convert key errs => key.wf && errs.all MemErr.wf
  | .statsRecord tile => tileOk tile
  | .policyRecordScore die tile flips errs => decide (die < 16) && tileOk tile && flips.all SlotFlip.wf && errs.all MemErr.wf
  | .shadowEntryDone tile _ errs => tileOk tile && errs.all MemErr.wf
  | .moveCopy key => key.wf
  | .curateScore key errs => key.wf && errs.all MemErr.wf
  | .curatePattern key errs => key.wf && errs.all MemErr.wf
  | .curateEntry key errs => key.wf && errs.all MemErr.wf
  | .relay key errs => key.wf && errs.all MemErr.wf
  | .semSignal key => key.wf
  | .semWait key => key.wf
  | .semaphoreTake ctx seq pair sem => ctxOk ctx && word64 seq && decide (pair < 1024) && decide (sem < 2)
  | .burstIssue key errs stackFail => key.wf && errs.all MemErr.wf && stackFail.all fun k => decide (k < 12)
  | .transferLanded key _ _ errs => key.wf && errs.all MemErr.wf
  | .huddle key => key.wf
  | .huddleRelease key _ mhz => key.wf && decide (1 ≤ mhz)
  | .nop key => key.wf
  | .tileConfig key img errs => key.wf && img.wf && errs.all MemErr.wf
  | .loadPolicy key img errs => key.wf && img.wf && errs.all MemErr.wf
  | .imageLoadDone tile _ errs => tileOk tile && errs.all SlotErr.wf
  | .tmaEdit key errs => key.wf && errs.all MemErr.wf
  | .inval tile _ => tileOk tile
  | .write tile _ => tileOk tile
  | .valid tile _ => tileOk tile
  | .pf tile => tileOk tile
  | .pfSel tile => tileOk tile
  | .flip tile => tileOk tile
  | .auxWrite tile => tileOk tile
  | .tmaScrub tile slot _ => tileOk tile && decide (slot < 512)
  | .sramScrub tile word _ => tileOk tile && decide (word < 16384)
  | .hbmPatrolScrub err => err.wf
  | .hbmRefresh stack channel => decide (stack < 12) && decide (channel < 32)
  | .score key errs => key.wf && errs.all MemErr.wf
  | .scoreRecord key replica _ flips errs => key.wf && decide (replica < 16) && flips.all SlotFlip.wf && errs.all MemErr.wf
  | .scoreResultDeliver key errs => key.wf && errs.all MemErr.wf
  | .ringTailPoll key errs => key.wf && errs.all MemErr.wf
  | .pattern key errs => key.wf && errs.all MemErr.wf
  | .laneRecordStart key errs => key.wf && errs.all MemErr.wf
  | .patternByte key _ flips => key.wf && flips.all SlotFlip.wf
  | .laneFlush key _ errs => key.wf && errs.all MemErr.wf
  | .reduceScatter key errs => key.wf && errs.all MemErr.wf
  | .allReduce key errs => key.wf && errs.all MemErr.wf
  | .allGather key errs => key.wf && errs.all MemErr.wf
  | .stragglerDeadline key shard errs => key.wf && rankOk shard && errs.all MemErr.wf
  | .stepCommit key => key.wf
  | .vote v => v.wf
  | .voteDeadline => true
  | .decision _ r m => decide (r ≤ 4096) && decide (m ≤ 4096)
  | .decisionTimeout => true
  | .scResolveCommit w => w.wf
  | .scResolveAbort w => w.wf
  | .stepStateWrite off w =>
    [Reg.SC_STEP.COUNT.off, Reg.SC_SEED_LO.SEED.off, Reg.SC_SEED_HI.SEED.off, Reg.SC_CTRL.TRAIN_CTX.off].contains off && w.wf
  | .detWrite w => w.wf
  | .snapshot key errs => key.wf && errs.all MemErr.wf
  | .snapshotComplete key _ errs => key.wf && errs.all MemErr.wf
  | .journalWrite => true
  | .setShare key => key.wf
  | .destroyContext key failing => key.wf && failing.all fun f => decide (1 ≤ f.1 && f.1 ≤ 12) && decide (f.2.2 < 65536)
  | .mapHandle key => key.wf
  | .unmapHandle key => key.wf
  | .packageFlitReceive island link _ replays => islandOk island && decide (link ≤ 4) && decide (replays ≤ 4)
  | .flitReceive port bytes _ _ => linkPortOk port && decide (bytes.length = 256) && bytesOk bytes
  | .retry port seq credit => linkPortOk port && decide (seq < 4096) && decide (credit < 65536)
  | .linkSilence port => linkPortOk port
  | .portRetrain port => linkPortOk port
  | .portTrainingDone port result => linkPortOk port && result.wf
  | .downNotice port module => decide (port ≤ 18) && moduleOk module
  | .heartbeatTimer => true
  | .heartbeat member ports => moduleOk member && decide (ports < 2 ^ 18)
  | .mapTimer => true
  | .map root members ports epoch =>
    moduleOk root && members.all moduleOk && ports.all (fun p => moduleOk p.1 && decide (p.2 < 2 ^ 18)) && decide (epoch < 2 ^ 32)
  | .memberTimeout member => moduleOk member
  | .mapTimeout => true
  | .linkJoin w => w.wf
  | .join member ports => moduleOk member && decide (ports < 2 ^ 18)
  | .joinTimeout => true
  | .linkLeave w => w.wf
  | .leaveDrained => true
  | .leave member => moduleOk member
  | .ready tag rank _ => tagOk tag && rankOk rank
  | .data tag shard rank offset _ payload errs =>
    tagOk tag && rankOk shard && rankOk rank && decide (offset < 2 ^ 32) && decide (payload.length ≤ 224) && bytesOk payload &&
      errs.all MemErr.wf
  | .msgDone tag shard rank => tagOk tag && rankOk shard && rankOk rank
  | .nack code tag addr => decide (1 ≤ code && code ≤ 4) && tagOk tag && word64 addr
  | .rdmaWrite port qpn rkey off bytes errs =>
    ethPortOk port && qpnOk qpn && decide (rkey < 2 ^ 32) && word64 off && bytesOk bytes && errs.all MemErr.wf
  | .rdmaRead port qpn rkey off len errs =>
    ethPortOk port && qpnOk qpn && decide (rkey < 2 ^ 32) && word64 off && decide (len < 2 ^ 32) && errs.all MemErr.wf
  | .send port qpn bytes => ethPortOk port && qpnOk qpn && bytesOk bytes
  | .ethNak port qpn => ethPortOk port && qpnOk qpn
  | .ethRetryExhausted port qpn => ethPortOk port && qpnOk qpn
  | .ethLinkLost port => ethPortOk port
  | .ethTrainingDone port => ethPortOk port
  | .refGrantWrite w => w.wf
  | .refClampWrite w => w.wf
  | .refPowerSample _ => true
  | .sensorSample readings neighbours stackTemps =>
    readings.all IslandReading.wf && neighbours.all (fun p => islandOk p.1 && islandOk p.2) &&
      stackTemps.all fun k => decide (k.1 < 12) && decide (k.2 < 128)
  | .governorPeriod => true
  | .ditherSlot => true
  | .marginTrim island _ => islandOk island
  | .laneMarginCheck eth port lane _ => (if eth then ethPortOk port else linkPortOk port) && decide (lane < 8)
  | .capWrite w => w.wf
  | .gateRequest w => w.wf
  | .islandDrainDone island => islandOk island
  | .ungateRequest w => w.wf
  | .ungateRampDone island => islandOk island
  | .pendingGenWrite w => w.wf
  | .sbNotifyArm ctx w => ctxOk ctx && w.wf
  | .evqEnable w => w.wf
  | .evqRecordWrite => true
  | .coalesceWindowEnd typ src _ ctx => decide (typ < 65536) && islandOk src && ctxOk ctx
  | .hallAlarmSend => true
  | .traceEnable w => w.wf
  | .mbDoorbellIn w => w.wf
  | .mbAccept => true
  | .mbResponse => true
  | .mbDoorbellAck w => w.wf
  | .getVersion idx => decide (idx < 32)
  | .ctxCreate idx => decide (idx < 32)
  | .ctxSetQuota idx => decide (idx < 32)
  | .ctxSetTimeout idx => decide (idx < 32)
  | .qpCreate idx => decide (idx < 32)
  | .qpFree idx => decide (idx < 32)
  | .imageCheck idx img => decide (idx < 32) && img.wf
  | .calConfig idx => decide (idx < 32)
  | .calRefit idx => decide (idx < 32)
  | .fwUpdate idx head => decide (idx < 32) && head.wf
  | .fwSvnCommit idx => decide (idx < 32)
  | .blackboxRead idx => decide (idx < 32)
  | .wdogKick w => w.wf
  | .wdogExpiry => true
  | .captainRestartDone _ => true
  | .whistle cause => cause.wf
  | .wholeDeviceReset => true
  | .blackboxStore => true
  | .pwrgdRise addr refclkSel => decide (addr < 8) && decide (refclkSel < 2)
  | .railsUp => true
  | .pwrgdFall => true
  | .perstAssert => true
  | .perstRelease => true
  | .pcieHotReset => true
  | .fwVerifyDone _ _ _ => true
  | .fitnessScanDone found _ => found.wf
  | .pldmRequest sensor => decide (sensor ≤ 28)
  | .refusedRegisterRead bar off _ => barOk bar off
  | .roceRetransmission port _ => ethPortOk port
  | .arpRequest port _ => ethPortOk port
  | .priorityFlowControlFrame port mask => ethPortOk port && decide (mask < 256)

end Sys2Proof
end

