-- ==== Sys2Proof/Certificates/Slice0/Obligations.lean ====
section
/-! DEFINITION. The statements about the block, for the provers: one definition each. -/

open Sys2Proof Sys2Proof.Machine

/-! ## The whole block -/

/-- A step with a command at the front of the queue is that command's meaning on the queue's rest. -/
def StepRunsTheFrontCommand : Prop :=
  ∀ (c : Instr) (rest : List Instr) (s : State),
    step { s with pending := c :: rest } = exec c { s with pending := rest }

/-- An op has started and one of its tiles lies on a held island: its running time stands still (R328). -/
def HeldBack (s : State) (o : Op) : Prop := (o.st = .running ∨ o.st = .executed) ∧ o.tiles.any s.heldTile = true

/-- The model's choice (log entry 14): with no command waiting a step lets the time base count one nanosecond. Where no started
op is held, no link port is up and no alarm waits for the Referee's ceiling nothing else changes; a started op that is held
gains a nanosecond of pause (R328); a port that is up and has sent nothing for 1 µs sends an IDLE flit (R404). -/
def EmptyQueueTicks : Prop :=
  ∀ s : State, s.pending = [] →
    ((∀ b ∈ s.fe.bufs, ∀ o ∈ b.ops, ¬HeldBack s o) → (∀ p, p < 18 → s.portState p ≠ Port.UP) → s.ev.hallNext ≤ s.now + 1 →
      step s = .next { s with now := s.now + 1 }) ∧
    ∃ t, step s = .next t ∧ t.now = s.now + 1 ∧
      (∀ k o, s.opAt k = some o → HeldBack s o → t.opAt k = some { o with paused := o.paused + 1 }) ∧
      (∀ k o, s.opAt k = some o → ¬HeldBack s o → t.opAt k = some o) ∧
      ∀ p, p < 18 → s.stopped = false → s.portState p = Port.UP → (s.port p).lastTx + 1000 ≤ s.now + 1 →
        (t.port p).lastTx = s.now + 1 ∧
        .flit p ((Hdr.bare Flit.IDLE).bytes 0 (s.rxAck p) ((s.port p).owed.map (min · 15)) []) ∈ t.sent

/-- A step runs the command at the front of the queue on the queue's rest; on an empty queue it ticks (log entry 14). -/
def Obligations.StepTakesTheFrontCommand : Prop := StepRunsTheFrontCommand ∧ EmptyQueueTicks

/-- What reset leaves: every register field at its reset value, STAGE STANDBY with PERST_N low, PHASE OPEN, context 0 ACTIVE
and every other FREE, every tile IDLE, nothing in flight, in a FIFO or in a queue. What memory that nothing has written reads
as is the model's choice (log entry 15). -/
def Obligations.ResetState : Prop :=
  (∀ f : Fld, State.reset.rd f = f.reset) ∧ State.reset.stage = Stage.STANDBY ∧ State.reset.pins.perstN = false ∧
  State.reset.phase = Phase.OPEN ∧ State.reset.pending = [] ∧ State.reset.fe.bufs = [] ∧ State.reset.ev.posted = [] ∧
  State.reset.ev.alarms = [] ∧ State.reset.cap.reqs = [] ∧ State.reset.cap.resps = [] ∧ State.reset.qps = [] ∧
  State.reset.sc.jpend = [] ∧ State.reset.se.holds = [] ∧ State.reset.stopped = false ∧
  (∀ c, (State.reset.ctx c).st = if c = 0 then .active else .free) ∧
  (∀ t, (State.reset.tile t).st = .idle ∧ (State.reset.tile t).duty = 0)

/-- Device memory, host memory and tile SRAM are in canonical form after reset. -/
def Obligations.ResetMemoriesAreCanonical : Prop := State.reset.memoriesWf = true

/-- Every step keeps the canonical form of every memory: addresses strictly rising, no listed byte equal to what an unlisted
one reads as. -/
def StepKeepsMemoriesCanonical : Prop :=
  ∀ s t : State, s.memoriesWf = true → step s = .next t → t.memoriesWf = true

/-- Every step keeps the neighbour holds on islands that exist. -/
def StepKeepsHoldsOnIslands : Prop :=
  State.reset.holdsNamed = true ∧ ∀ s t : State, s.holdsNamed = true → step s = .next t → t.holdsNamed = true

/-- Every step keeps the canonical form of every memory, and holds only islands that exist. -/
def Obligations.StepKeepsMemoriesAndHolds : Prop := StepKeepsMemoriesCanonical ∧ StepKeepsHoldsOnIslands

/-- No command changes the queue of waiting commands; the time base stands still but for a power loss, which clears it, and
the two boot ends, which take the time they are given. -/
def Obligations.CommandsKeepQueueAndClock : Prop :=
  ∀ (c : Instr) (s t : State), exec c s = .next t →
    t.pending = s.pending ∧
    (c ≠ .pwrgdFall → s.now ≤ t.now) ∧
    ((∀ a b m, c ≠ .fwVerifyDone a b m) → (∀ f m, c ≠ .fitnessScanDone f m) → c ≠ .pwrgdFall → t.now = s.now)

/-- The frame of the memories: a command that does not touch device memory outside the trace ring, device memory at all, host
memory, or the SRAM of tiles leaves every byte of it. -/
def FrameOfMemories : Prop :=
  ∀ (c : Instr) (s t : State), exec c s = .next t → ∀ p ∈ [Part.data, .hbm, .host, .sram], leaves c p = true → p.same s t

/-- The frame of what ops work on: tiles, poison, rows with errors, contexts, buffers in flight, streams, step controller,
images. -/
def FrameOfOpState : Prop :=
  ∀ (c : Instr) (s t : State), exec c s = .next t →
    ∀ p ∈ [Part.tiles, .poison, .errors, .contexts, .frontEnd, .streams, .step, .configs], leaves c p = true → p.same s t

/-- The frame of links, Ethernet ports, the domain's map, queue pairs and what is sent outside. -/
def FrameOfNetworkState : Prop :=
  ∀ (c : Instr) (s t : State), exec c s = .next t →
    ∀ p ∈ [Part.link, .eth, .domain, .qps, .sent], leaves c p = true → p.same s t

/-- The frame of events and alarms, Captain, power, pins, fitness map, failures, black box, the whistle's stop, interrupts, the
tile window and write-once fields. -/
def FrameOfPlatformState : Prop :=
  ∀ (c : Instr) (s t : State), exec c s = .next t →
    ∀ p ∈ [Part.events, .captain, .power, .pins, .fitness, .failures, .box, .halt, .msix, .pendingBits, .window, .written],
      leaves c p = true → p.same s t

/-- Every command leaves each part of the state that its effect does not name: memories, op state, network state, platform
state. -/
def Obligations.FramesOfEveryPart : Prop := FrameOfMemories ∧ FrameOfOpState ∧ FrameOfNetworkState ∧ FrameOfPlatformState

/-- The frame of registers, by blocks: a command whose operands are in range leaves every register of each block that it does
not touch. -/
def Obligations.FrameOfRegisters : Prop :=
  ∀ (c : Instr) (s t : State), c.wf = true → s.holdsNamed = true → exec c s = .next t →
    ∀ b, leaves c (.regs b) = true → (Part.regs b).same s t

/-! ## Registers -/

/-- R29: registers are 64 bits wide and 8-byte aligned; aligned accesses of 4 or 8 bytes are accepted, and a read is answered with the bytes
that stand there; a read of any other width or alignment returns 0 and a write of any other is dropped, and either counts in
HI_ACCESS_ERR. -/
def Obligations.RegisterAccessWidths : Prop :=
  (∀ r ∈ regRows ++ tileRegRows, r.base % 8 = 0 ∧ r.stride % 8 = 0 ∧ ∀ f ∈ r.flds 0, f.lo + f.w ≤ 64) ∧
  ∀ (bar off size : Nat) (w : Wr) (s : State),
    ((size = 4 ∨ size = 8) ∧ off % size = 0 →
      exec (.refusedRegisterRead bar off size) s = .next (s.send (.completion
        (leBytes size (s.hostWord ((if bar = 2 then bar2 else 0) + off / 8 * 8) / 2 ^ (8 * (off % 8)))) false)) ∧
      exec (.regWrite bar off size w) s = .next (s.mapWrite ((if bar = 2 then bar2 else 0) + off / 8 * 8)
        { w with wide := size = 8, hi := off % 8 = 4 })) ∧
    (¬((size = 4 ∨ size = 8) ∧ off % size = 0) →
      let t := s.wr Reg.HI_ACCESS_ERR.COUNT (min (s.rd Reg.HI_ACCESS_ERR.COUNT + 1) (2 ^ 32 - 1))
      exec (.refusedRegisterRead bar off size) s = .next (t.send (.completion (List.replicate size 0) false)) ∧
      exec (.regWrite bar off size w) s = .next t)

/-- The fields of a register lie apart, within its 64 bits, at its own offset, and their reset values fit. -/
def Obligations.RegisterFieldsLieApart : Prop :=
  ∀ off : Nat, (fieldsAt regRows off).Pairwise (fun f g => f.lo + f.w ≤ g.lo ∨ g.lo + g.w ≤ f.lo) ∧
    ∀ f ∈ fieldsAt regRows off, f.off = off ∧ f.lo + f.w ≤ 64 ∧ f.reset < 2 ^ f.w

/-- A register whose write does nothing beyond its fields, at an offset that the source reaches. -/
abbrev PlainRegister (s : State) (src : Src) (off : Nat) : Prop :=
  off % 8 = 0 ∧ off < 0x4000000 ∧ s.unreachable src off = false ∧ actOf off = none ∧
  ¬(0x18000 ≤ off ∧ off < 0x18400) ∧ ¬(0x20000 ≤ off ∧ off < 0x21000)

/-- An 8-byte write to a plain register none of whose fields is locked: each field follows its type (R32), a bit of a W1C
field that the hardware sets in the same cycle reads 1 (R35), and no other register field changes. -/
def Obligations.RegisterWriteFollowsFieldTypes : Prop :=
  ∀ (off : Nat) (w : Wr) (s : State), PlainRegister s w.src off → w.wide = true →
    (∀ f ∈ fieldsAt regRows off, s.locked w f = false ∧ (f.ty = .hwu → w.sameBits f = 0)) →
    ∃ t, exec (.regWrite 0 off 8 w) s = .next t ∧
      (∀ f ∈ fieldsAt regRows off,
        (f.ty = .ro ∨ f.ty = .sc ∨ ((f.ty = .rw ∨ f.ty = .rwl ∨ f.ty = .wo1 ∨ f.ty = .hwu) ∧ s.reservedCode { w with hi := false } f) →
          t.rd f = s.rd f) ∧
        ((f.ty = .rw ∨ f.ty = .rwl ∨ f.ty = .wo1 ∨ f.ty = .hwu) ∧ s.reservedCode { w with hi := false } f = false → t.rd f = bitsOf w.data f.lo f.w) ∧
        (f.ty = .cnt → t.rd f = bitsOf w.data f.lo f.w) ∧
        (f.ty = .w1c → t.rd f = ((s.rd f - (s.rd f &&& bitsOf w.data f.lo f.w)) ||| w.sameBits f) % 2 ^ f.w) ∧
        (f.ty = .w1s → t.rd f = (s.rd f ||| bitsOf w.data f.lo f.w) % 2 ^ f.w)) ∧
      (∀ k, (∀ f ∈ fieldsAt regRows off, f.key ≠ k) → mapGet? t.regs k = mapGet? s.regs k) ∧
      t.hbm = s.hbm ∧ t.ev = s.ev ∧ t.sent = s.sent

/-- The base of a DMA window takes the first host write after reset; a later one is dropped, sets LOCK_VIOLATION, counts, and
records its address, whatever it carries (R36, R37). -/
def Obligations.DmaWindowBaseIsWrittenOnce : Prop :=
  ∀ (k v : Nat) (s : State), k < 16 → s.valid = true →
    (s.wo1.contains (Reg.REF_WIN_BASE.BASE k).key = false →
      ∃ t, exec (.regWrite 0 (0x1400000 + 16 * k) 8 (hostWrite v)) s = .next t ∧
        t.rd (Reg.REF_WIN_BASE.BASE k) = bitsOf v 12 52 ∧ t.wo1 = (Reg.REF_WIN_BASE.BASE k).key :: s.wo1 ∧
        t.rd Reg.LOCK_STATUS.VIOL_COUNT = s.rd Reg.LOCK_STATUS.VIOL_COUNT) ∧
    (s.wo1.contains (Reg.REF_WIN_BASE.BASE k).key = true →
      ∃ t, exec (.regWrite 0 (0x1400000 + 16 * k) 8 (hostWrite v)) s = .next t ∧
        t.rd (Reg.REF_WIN_BASE.BASE k) = s.rd (Reg.REF_WIN_BASE.BASE k) ∧ t.wo1 = s.wo1 ∧
        t.rd Reg.LOCK_STATUS.LOCK_VIOLATION = 1 ∧ t.rd Reg.LOCK_STATUS.LAST_SRC = 0 ∧
        t.rd Reg.LOCK_STATUS.VIOL_COUNT = min (s.rd Reg.LOCK_STATUS.VIOL_COUNT + 1) (2 ^ 32 - 1) ∧
        t.rd Reg.LOCK_LAST_ADDR.ADDR = 0x1400000 + 16 * k)

/-- The end of a window: a rate limiter or a coalescing key that holds a folded record posts it and opens a new window; one
that holds none closes (R38, R509). -/
def WindowEnds : Prop :=
  ∀ s : State,
    (s.ev.lock.isOpen = true → s.ev.lock.till ≤ s.now → s.ev.lock.pend = none →
      exec (.rateLimitWindowEnd false) s = .next { s with ev := { s.ev with lock := ⟨false, none, s.now + rateWindow⟩ } }) ∧
    (s.ev.deny.isOpen = true → s.ev.deny.till ≤ s.now → s.ev.deny.pend = none →
      exec (.rateLimitWindowEnd true) s = .next { s with ev := { s.ev with deny := ⟨false, none, s.now + rateWindow⟩ } }) ∧
    (∀ e t, s.ev.lock = ⟨true, some e, t⟩ → t ≤ s.now → s.muted = false →
      exec (.rateLimitWindowEnd false) s = .next { s with ev := { s.ev with
        lock := ⟨true, none, s.now + rateWindow⟩, posted := s.ev.posted ++ [e] } }) ∧
    (∀ e t, s.ev.deny = ⟨true, some e, t⟩ → t ≤ s.now → s.muted = false →
      exec (.rateLimitWindowEnd true) s = .next { s with ev := { s.ev with
        deny := ⟨true, none, s.now + rateWindow⟩, posted := s.ev.posted ++ [e] } }) ∧
    (s.now < s.ev.lock.till → exec (.rateLimitWindowEnd false) s = .next s) ∧
    (s.now < s.ev.deny.till → exec (.rateLimitWindowEnd true) s = .next s) ∧
    ∀ (typ src ctx : Nat) (h : Bool) (w : Win), s.muted = false →
      s.ev.wins.find? (fun w => w.typ = typ && w.src = src && w.hasCtx = h && w.ctx = ctx) = some w → w.till ≤ s.now →
      ∃ t, exec (.coalesceWindowEnd typ src h ctx) s = .next t ∧
        (w.pend = none → t.ev.posted = s.ev.posted ∧
          t.ev.wins = s.ev.wins.filter fun x => !(x.typ = typ && x.src = src && x.hasCtx = h && x.ctx = ctx)) ∧
        ∀ e, w.pend = some e → t.ev.posted = s.ev.posted ++ [e] ∧ t.ev.wins.length = s.ev.wins.length ∧
          ∀ x ∈ t.ev.wins, x.typ = typ → x.src = src → x.hasCtx = h → x.ctx = ctx → x.pend = none

/-! ## Host interface -/

/-- A read and a write through the BAR4 window, where no read error is found: device memory's bytes are returned where no op in
flight may write them, or all ones with the poison mark; a write lands at the window's address and nowhere else and clears the poison of the sectors that it
covers; beyond the device reserve reads are 0 and writes dropped (R276, R281, R282, R439). -/
def Obligations.Bar4ReachesDeviceMemory : Prop :=
  ∀ (off size : Nat) (bytes : List Nat) (s : State), s.valid = true →
    let a := s.rd Reg.BAR4_WIN.BASE * 2 ^ 30 + off
    let n := bytes.length
    (s.reserve < a + size →
      exec (.bar4Read off size []) s = .next (s.send (.completion (List.replicate size 0) false))) ∧
    (a + size ≤ s.reserve → s.poisonIn a size = none → (∀ i, i < size → s.unsettled ⟨false, a + i⟩ = false) →
      exec (.bar4Read off size []) s = .next { s.send (.completion (s.hbm.rdBytes a size) false) with free := s.free + size }) ∧
    (∀ p, a + size ≤ s.reserve → s.poisonIn a size = some p →
      ∃ t, exec (.bar4Read off size []) s = .next t ∧ t.sent = s.sent ++ [.completion (List.replicate size 0xFF) true] ∧
        t.rd Reg.MEM_STATUS.POISON_READ = 1 ∧ t.rd Reg.MEM_UE_ADDR.ADDR = p % 2 ^ 48 ∧ t.hbm = s.hbm) ∧
    (s.reserve < a + n → exec (.bar4Write off bytes []) s = .next s) ∧
    (0 < n → a + n ≤ s.reserve → (∀ p ∈ s.poison, p + 32 ≤ a ∨ a + n ≤ p ∨ (a ≤ p ∧ p + 32 ≤ a + n)) →
      ∃ t, exec (.bar4Write off bytes []) s = .next t ∧ Memory.stored s.hbm t.hbm a bytes ∧
        (∀ p, p ∈ t.poison ↔ p ∈ s.poison ∧ ¬(a ≤ p ∧ p + 32 ≤ a + n)) ∧ t.regs = s.regs ∧ t.ev = s.ev)

/-- A notification armed whose condition holds fires at once: ARM falls and its vector is sent, or pended while masked;
otherwise it stays armed (R443). -/
def NotificationFiresOrStaysArmed : Prop :=
  ∀ (c v : Nat) (s : State), c < 4096 → s.valid = true → bitsOf v 6 1 = 1 →
    ∃ t, exec (.sbNotifyArm c (hostWrite v)) s = .next t ∧
      let vec := if 2 ≤ bitsOf v 0 6 then bitsOf v 0 6 else s.rd (Reg.SB_NOTIFY_CTRL.VEC c)
      (s.rd (Reg.SB_NOTIFY.TARGET c) ≤ s.rd (Reg.SB_DONE_SEQ.SEQ c) ∨ (s.ctx c).st ≠ .active →
        t.rd (Reg.SB_NOTIFY_CTRL.ARM c) = 0 ∧
        (s.msixMasked vec = false → t.sent = s.sent ++ [.msix vec] ∧ t.msixPend = s.msixPend) ∧
        (s.msixMasked vec = true → t.sent = s.sent ∧ t.msixPend = s.msixPend ||| 2 ^ vec)) ∧
      (s.rd (Reg.SB_DONE_SEQ.SEQ c) < s.rd (Reg.SB_NOTIFY.TARGET c) ∧ (s.ctx c).st = .active →
        t.rd (Reg.SB_NOTIFY_CTRL.ARM c) = 1 ∧ t.sent = s.sent ∧ t.msixPend = s.msixPend)

/-- Enabling the event ring or the trace ring samples its base and size and starts it empty (R448, R512). -/
def RingEnablesSampleBaseAndSize : Prop :=
  ∀ (v : Nat) (s : State), s.valid = true → v < 2 ^ 13 → bitsOf v 0 1 = 1 →
    (s.on Reg.EVQ_CTRL.EN = false →
      ∃ t, exec (.evqEnable (hostWrite v)) s = .next t ∧ t.rd Reg.EVQ_CTRL.EN = 1 ∧ t.rd Reg.EVQ_HEAD.HEAD = s.rd Reg.EVQ_TAIL.TAIL % 2 ^ 32 ∧
        t.ev.base = 64 * s.rd Reg.EVQ_BASE.ADDR ∧ t.ev.sizeLog2 = t.rd Reg.EVQ_CTRL.SIZE_LOG2 ∧ t.ev.posted = []) ∧
    (s.on Reg.FLT_TRC_CTRL.EN = false →
      ∃ t, exec (.traceEnable (hostWrite v)) s = .next t ∧ t.rd Reg.FLT_TRC_CTRL.EN = 1 ∧ t.rd Reg.FLT_TRC_HEAD.HEAD = 0 ∧
        t.rd Reg.FLT_TRC_TAIL.TAIL = 0 ∧ t.ev.trcBase = s.rd Reg.FLT_TRC_BASE.ADDR ∧
        t.ev.trcSizeLog2 = if 10 ≤ bitsOf v 1 5 ∧ bitsOf v 1 5 ≤ 26 then bitsOf v 1 5 else s.rd Reg.FLT_TRC_CTRL.SIZE_LOG2)

/-- The actions of the host's control registers: an armed notification, and the enables of the event ring and the trace ring. -/
def Obligations.NotificationsAndRingEnables : Prop := NotificationFiresOrStaysArmed ∧ RingEnablesSampleBaseAndSize

/-- Where the event ring's next record goes (R449). -/
def evqPlace (s : State) : Nat := s.ev.base + 64 * (s.rd Reg.EVQ_HEAD.HEAD % 2 ^ s.ev.sizeLog2)

/-- The event ring's next record: a waiting alarm goes first; a posted record needs more room than ALARM_RESV; a record with
room is stored at HEAD, and nowhere else, with HEAD raised; without room it is lost and counted; a place that the Referee refuses stops
the ring (R449, R450, R481). -/
def EventRecordsAreWritten : Prop :=
  ∀ s : State,
    let a := evqPlace s
    let phase := 1 - s.rd Reg.EVQ_HEAD.HEAD / 2 ^ s.ev.sizeLog2 % 2
    let ok := s.evqBound a && s.windowAdmits a 64 true
    (∀ x, 0 < s.evqFree → s.ev.alarms.find? (fun a => !a.ring) = some x → ok = true →
      ∃ t, exec .evqRecordWrite s = .next t ∧ Memory.stored s.hostMem t.hostMem a (x.ev.bytes phase) ∧
        t.rd Reg.EVQ_HEAD.HEAD = (s.rd Reg.EVQ_HEAD.HEAD + 1) % 2 ^ 32 ∧ t.ev.posted = s.ev.posted) ∧
    (∀ e rest, s.ev.alarms.find? (fun a => !a.ring) = none → s.muted = false → s.ev.lost.1 = 0 → s.ev.posted = e :: rest →
      (s.rd Reg.EVQ_CTRL.ALARM_RESV < s.evqFree → ok = true →
        ∃ t, exec .evqRecordWrite s = .next t ∧ Memory.stored s.hostMem t.hostMem a (e.bytes phase) ∧
          t.rd Reg.EVQ_HEAD.HEAD = (s.rd Reg.EVQ_HEAD.HEAD + 1) % 2 ^ 32 ∧ t.ev.posted = rest ∧ t.ev.lost = s.ev.lost) ∧
      (s.rd Reg.EVQ_CTRL.ALARM_RESV < s.evqFree → ok = false →
        ∃ t, exec .evqRecordWrite s = .next t ∧ t.hostMem = s.hostMem ∧ t.rd Reg.EVQ_CTRL.EN = 0 ∧
          t.rd Reg.HI_STATUS.EVQ_REFUSED = 1) ∧
      (s.evqFree ≤ s.rd Reg.EVQ_CTRL.ALARM_RESV →
        ∃ t, exec .evqRecordWrite s = .next t ∧ t.hostMem = s.hostMem ∧ t.ev.posted = rest ∧ t.ev.lost = (1, e.time, e.time) ∧
          t.rd Reg.HI_STATUS.EVQ_LOST = 1))

/-- The oldest alarm not yet sent to the hall goes there with the count of those that still wait, once firmware runs and no
sooner than the Referee's ceiling admits it; one that
both paths have taken leaves the queue (R510, R511). -/
def HallTakesTheOldestAlarm : Prop :=
  ∀ (s : State) (x : Alarm), s.ev.alarms.find? (fun a => !a.hall) = some x → s.on Reg.MB_STATUS.FW_READY = true →
    (s.now < s.ev.hallNext → exec .hallAlarmSend s = .next s) ∧
    (s.ev.hallNext ≤ s.now → ∃ t, exec .hallAlarmSend s = .next t ∧
      t.ev.hallNext = s.now + 1000000000 / s.rd Reg.REF_RATE.ALARM_PER_S ∧
      t.sent = s.sent ++ [.hall (x.ev.bytes 0) ((s.ev.alarms.filter fun a => !a.hall).length - 1)] ∧
      (t.ev.alarms.filter fun a => !a.hall).length = (s.ev.alarms.filter fun a => !a.hall).length - 1 ∧
      ∀ y ∈ t.ev.alarms, (y.ring && y.hall) = false)

/-- Events on their way: windows end, records are written to the host's ring, alarms go to the hall. -/
def Obligations.EventsReachHostAndHall : Prop := WindowEnds ∧ EventRecordsAreWritten ∧ HallTakesTheOldestAlarm

/-! ## Tile window -/

/-- GO with no access running captures target, command and data and sets BUSY; GO while BUSY sets REJECT and changes neither
the running access nor BUSY (R44, R47). -/
def TileWindowGo : Prop :=
  ∀ (v : Nat) (s : State), s.valid = true → bitsOf v 0 1 = 1 →
    (s.rd Reg.TW_STATUS.BUSY = 0 →
      ∃ t a, exec (.twGo (hostWrite v)) s = .next t ∧ t.rd Reg.TW_STATUS.BUSY = 1 ∧ t.tw = some a ∧
        a.tile = s.rd Reg.TW_TARGET.TILE ∧ a.space = s.rd Reg.TW_TARGET.SPACE ∧ a.off = s.rd Reg.TW_TARGET.OFFSET ∧
        a.write = (bitsOf v 1 1 != 0) ∧
        a.words = (if 1 ≤ bitsOf v 2 4 ∧ bitsOf v 2 4 ≤ 8 then bitsOf v 2 4 else s.rd Reg.TW_CMD.WORDS) ∧
        a.data = ((List.range 8).map fun k => s.rd (Reg.TW_DATA.DATA k)) ∧
        a.dark = s.darkIsland (s.tileIsland (s.tileKey a.tile))) ∧
    (s.rd Reg.TW_STATUS.BUSY = 1 →
      ∃ t, exec (.twGo (hostWrite v)) s = .next t ∧ t.rd Reg.TW_STATUS.REJECT = 1 ∧ t.rd Reg.TW_STATUS.BUSY = 1 ∧ t.tw = s.tw)

/-- The running tile-window access completes: BUSY falls, SEQ rises, ERR holds its code. A write without error stores its
words in the SRAM of the tile reached, and nowhere else; a read without error of words that no running op writes and that are
not uncorrectable fills TW_DATA; an access with an error code touches nothing; on a held island an access that reaches a tile
waits (R45, R48, R49). -/
def TileWindowCompletes : Prop :=
  ∀ (s : State) (a : TwAcc), s.tw = some a → s.stopped = false →
    let k := s.tileKey a.tile
    (s.twErr a ≠ 1 → s.heldTile k = true → exec (.twAccessDone []) s = .next s) ∧
    (s.twErr a ≠ 0 → s.twErr a = 1 ∨ s.heldTile k = false → ∃ t, exec (.twAccessDone []) s = .next t ∧ t.tw = none ∧ t.rd Reg.TW_STATUS.BUSY = 0 ∧
      t.rd Reg.TW_STATUS.ERR = s.twErr a ∧ t.rd Reg.TW_STATUS.SEQ = (s.rd Reg.TW_STATUS.SEQ + 1) % 2 ^ 16 ∧ t.tiles = s.tiles) ∧
    (s.twErr a = 0 → s.heldTile k = false → a.space = 0 → a.words ≤ 8 →
      (a.write = true → a.data.length = 8 → ∃ t, exec (.twAccessDone []) s = .next t ∧ t.tw = none ∧
        t.rd Reg.TW_STATUS.BUSY = 0 ∧ t.rd Reg.TW_STATUS.ERR = 0 ∧ t.rd Reg.TW_STATUS.SEQ = (s.rd Reg.TW_STATUS.SEQ + 1) % 2 ^ 16 ∧
        Memory.stored (s.tile k).sram (t.tile k).sram a.off ((a.data.take a.words).flatMap (leBytes 8)) ∧
        ∀ j, j ≠ k → t.tile j = s.tile j) ∧
      (a.write = false → (s.tile k).unspec = false →
        (∀ j, j < a.words → s.twWritten k 0 (a.off + 8 * j) = false ∧ (s.tile k).badWords.contains ((a.off + 8 * j) / 8) = false) →
        ∃ t, exec (.twAccessDone []) s = .next t ∧ t.tw = none ∧
        t.rd Reg.TW_STATUS.BUSY = 0 ∧ t.rd Reg.TW_STATUS.ERR = 0 ∧ t.tiles = s.tiles ∧
        ∀ j, j < a.words → t.rd (Reg.TW_DATA.DATA j) = (s.tile k).sram.rdLE (a.off + 8 * j) 8))

/-- The iterate cursor, on an island that runs and a bank whose contents stand: a write of TMA_ICURSOR searches the key of
TMA_IKEY for the match of the given rank, with the bits in error that it meets, and sets BUSY; the search's end clears BUSY and
keeps the result; on a held island both wait (R202, R203, R205, R208). -/
def IterateCursorSearches : Prop :=
  ∀ (tile k : Nat) (flips : List SlotFlip) (s : State), s.stopped = false →
    (s.heldTile tile = true → exec (.tmaIcursorWrite tile k flips) s = .next s ∧ exec (.tmaIterDone tile) s = .next s) ∧
    (s.heldTile tile = false →
      (∃ t, exec (.tmaIcursorWrite tile k flips) s = .next t ∧
        (t.tile tile).rd TReg.TMA_IRESULT.BUSY = 1 ∧
        ((s.tile tile).lost = false → (t.tile tile).rd TReg.TMA_IRESULT.RESULT =
          (((s.tile tile).flipped tile flips).searchRank (s.tile tile).iKey (k % 1024)).word % 2 ^ TReg.TMA_IRESULT.RESULT.w) ∧
        ∀ j, j ≠ tile → t.tile j = s.tile j) ∧
      ∃ t, exec (.tmaIterDone tile) s = .next t ∧ (t.tile tile).rd TReg.TMA_IRESULT.BUSY = 0 ∧
        (t.tile tile).rd TReg.TMA_IRESULT.RESULT = (s.tile tile).rd TReg.TMA_IRESULT.RESULT ∧ ∀ j, j ≠ tile → t.tile j = s.tile j)

/-- The tile window starts and completes its accesses, and the iterate cursor searches. -/
def Obligations.TileWindowAccesses : Prop := TileWindowGo ∧ TileWindowCompletes ∧ IterateCursorSearches

/-! ## Referee -/

/-- A host write of REF_GRANT: the grants take the values written; a port newly granted leaves OFF for TRAINING, a link port
only in a dimension larger than 1; a port whose grant is withdrawn goes OFF (R409, R457, R482). -/
def Obligations.GrantsMovePorts : Prop :=
  ∀ (v : Nat) (s : State), s.valid = true →
    ∃ t, exec (.refGrantWrite (hostWrite v)) s = .next t ∧
      t.rd Reg.REF_GRANT.LINK = bitsOf v 0 18 ∧ t.rd Reg.REF_GRANT.ETH = bitsOf v 18 6 ∧
      (∀ p, p < 18 →
        (bitOf (s.rd Reg.REF_GRANT.LINK) p = false → bitOf v p = true → s.portState p = Port.OFF →
          t.portState p = if 1 < s.dimSize (p % 6 / 2) then Port.TRAINING else Port.OFF) ∧
        (bitOf (s.rd Reg.REF_GRANT.LINK) p = true → bitOf v p = false → t.portState p = Port.OFF)) ∧
      ∀ p, p < 6 →
        (bitOf (s.rd Reg.REF_GRANT.ETH) p = false → bitOf v (18 + p) = true → s.ethState p = Port.OFF → t.ethState p = Port.TRAINING) ∧
        (bitOf (s.rd Reg.REF_GRANT.ETH) p = true → bitOf v (18 + p) = false → t.ethState p = Port.OFF)

/-- A host write of REF_CLAMP lowers the clamps: a P_MAX_W above the current value or above 3,200 is dropped under R37, one
below 1,150 sets 1,150 and P_FLOORED; a T_MAX_C above the current value or above 105 is dropped, one below 85 sets 85 (R484). -/
def Obligations.ClampsAreLoweredOnly : Prop :=
  ∀ (v : Nat) (s : State), s.valid = true →
    let p := bitsOf v 0 12
    let p0 := s.rd Reg.REF_CLAMP.P_MAX_W
    let c := bitsOf v 16 7
    let c0 := s.rd Reg.REF_CLAMP.T_MAX_C
    p0 < 2 ^ 12 → c0 < 2 ^ 7 →
    ∃ t, exec (.refClampWrite (hostWrite v)) s = .next t ∧
      (p0 < p ∨ 3200 < p → t.rd Reg.REF_CLAMP.P_MAX_W = p0) ∧
      (p ≤ p0 → p ≤ 3200 → 1150 ≤ p → t.rd Reg.REF_CLAMP.P_MAX_W = p) ∧
      (p ≤ p0 → p < 1150 → t.rd Reg.REF_CLAMP.P_MAX_W = 1150 ∧ t.rd Reg.REF_CLAMP.P_FLOORED = 1) ∧
      (c0 < c ∨ 105 < c → t.rd Reg.REF_CLAMP.T_MAX_C = c0) ∧
      (c ≤ c0 → c ≤ 105 → 85 ≤ c → t.rd Reg.REF_CLAMP.T_MAX_C = c) ∧
      (c ≤ c0 → c < 85 → t.rd Reg.REF_CLAMP.T_MAX_C = 85) ∧
      (p0 < p ∨ 3200 < p ∨ c0 < c ∨ 105 < c →
        t.rd Reg.LOCK_STATUS.LOCK_VIOLATION = 1 ∧ t.rd Reg.LOCK_LAST_ADDR.ADDR = 0x1400118 ∧
        t.rd Reg.LOCK_STATUS.VIOL_COUNT = min (s.rd Reg.LOCK_STATUS.VIOL_COUNT + 1) (2 ^ 32 - 1)) ∧
      (p ≤ p0 → p ≤ 3200 → c ≤ c0 → c ≤ 105 → t.rd Reg.LOCK_STATUS.VIOL_COUNT = s.rd Reg.LOCK_STATUS.VIOL_COUNT)

/-- A sample of input power that completes 1 ms whose mean is above P_MAX_W engages the clamp, which puts every clocked compute
island at floor; one whose mean is below 95 percent of P_MAX_W releases it (R483). That a mean needs 100 samples is the model's
choice (log entry 98). -/
def Obligations.PowerClampEngagesAndReleases : Prop :=
  ∀ (watts : Nat) (s : State), s.watching = true → 99 ≤ s.pwr.samples.length →
    let m := sumNat ((watts :: s.pwr.samples).take 100)
    let max := s.rd Reg.REF_CLAMP.P_MAX_W
    (s.pwr.clamp = false → max * 100 < m →
      ∃ t, exec (.refPowerSample watts) s = .next t ∧ t.pwr.clamp = true ∧ t.rd Reg.REF_CLAMP.PWR_ACTIVE = 1 ∧
        t.rd Reg.REF_STATUS.CLAMP_SEEN = 1 ∧
        ∀ n ∈ s.computeIslands, s.clocked n = true → t.rd (Reg.ISL_STATE.FREQ_MHZ n) = 1200) ∧
    (s.pwr.clamp = true → m < 95 * max →
      ∃ t, exec (.refPowerSample watts) s = .next t ∧ t.pwr.clamp = false ∧ t.rd Reg.REF_CLAMP.PWR_ACTIVE = 0)

/-- The watchdog: a kick of the Captain while RUNNING restarts the period, while RESTARTING it is dropped as a violation; a
period that elapses restarts the Captain with FW_READY 0 and FW_RESTARTED 1, and sounds the whistle where the last restart
ended less than 10 s before; a restart that passes R476 runs the Captain again, one that fails sounds the whistle (R486). -/
def Obligations.WatchdogRestartsTheCaptain : Prop :=
  ∀ s : State,
    (s.wdog = Wdog.RUNNING →
      exec (.wdogKick ⟨.captain, true, false, 1, 0⟩) s = .next { s with cap := { s.cap with kickAt := s.now } }) ∧
    (s.wdog = Wdog.RESTARTING →
      ∃ t, exec (.wdogKick ⟨.captain, true, false, 1, 0⟩) s = .next t ∧ t.cap = s.cap ∧
        t.rd Reg.LOCK_STATUS.LOCK_VIOLATION = 1 ∧ t.rd Reg.LOCK_STATUS.LAST_SRC = 1) ∧
    (s.watching = true → s.wdog = Wdog.RUNNING → s.on Reg.MB_STATUS.FW_READY = true → s.wdogDue = true →
      ∃ t, exec .wdogExpiry s = .next t ∧ t.wdog = Wdog.RESTARTING ∧ t.rd Reg.MB_STATUS.FW_READY = 0 ∧
        t.rd Reg.MB_STATUS.FW_RESTARTED = 1 ∧ t.rd Reg.REF_STATUS.WDOG_SEEN = 1 ∧
        t.rd Reg.REF_WDOG.EXPIRIES = min (s.rd Reg.REF_WDOG.EXPIRIES + 1) (2 ^ 16 - 1) ∧
        (s.cap.lastRestart = none → t.stopped = false ∧ t.ev.alarms.any (fun a => a.ev.typ = Ev.CAPTAIN_WDOG) = true) ∧
        ∀ x, s.cap.lastRestart = some x → s.now < x + 10000000000 → s.muted = false → s.stage = Stage.READY →
          t.stopped = true ∧ t.pins.whistle = true ∧ t.rd Reg.FLT_STATUS.D_TYPE = Ev.REF_WDOG_FAIL) ∧
    (s.watching = true → s.wdog = Wdog.RESTARTING → s.stage = Stage.READY →
      (∀ h, s.cap.slot s.cap.booted = some h → s.cap.accepts h = true →
        ∃ t, exec (.captainRestartDone true) s = .next t ∧ t.wdog = Wdog.RUNNING ∧ t.rd Reg.MB_STATUS.FW_READY = 1 ∧
          t.cap.lastRestart = some s.now ∧ t.cap.kickAt = s.now) ∧
      (s.muted = false →
        ∃ t, exec (.captainRestartDone false) s = .next t ∧ t.stopped = true ∧ t.pins.whistle = true))

/-! ## Power and thermal management -/

/-- A write of PWR_CTRL.CAP_W by the host or the Captain: 1,150 to 3,200 is taken; below 1,150 sets 1,150, sets CAP_FLOORED and counts a
class C event; above 3,200 is a reserved code and leaves the field (R528). A cap below the measured draw counts a QUOTA_OVER
besides (R326). -/
def Obligations.PowerCapIsClamped : Prop :=
  ∀ (w : Wr) (s : State), w.src ≠ .frontEnd → s.unreachable w.src Reg.PWR_CTRL.CAP_W.off = false → w.covers Reg.PWR_CTRL.CAP_W = true →
    let c := w.field Reg.PWR_CTRL.CAP_W
    let drawn := decide (100 * max c 1150 < s.pwr.sum?.getD 0)
    let count := s.rd Reg.FLT_CLASS_C.COUNT
    ∃ t, exec (.capWrite w) s = .next t ∧
      (1150 ≤ c → c ≤ 3200 → t.rd Reg.PWR_CTRL.CAP_W = c ∧ t.rd Reg.PWR_STATUS.CAP_FLOORED = s.rd Reg.PWR_STATUS.CAP_FLOORED) ∧
      (c < 1150 → t.rd Reg.PWR_CTRL.CAP_W = 1150 ∧ t.rd Reg.PWR_STATUS.CAP_FLOORED = 1) ∧
      (c ≤ 3200 →
        t.rd Reg.FLT_CLASS_C.COUNT = if c < 1150 ∨ drawn then
          min (count + (if c < 1150 then 1 else 0) + (if drawn then 1 else 0)) (2 ^ 64 - 1) else count) ∧
      (3200 < c → t.rd Reg.PWR_CTRL.CAP_W = s.rd Reg.PWR_CTRL.CAP_W % 2 ^ 12) ∧
      (∀ k, t.fe.bufs = s.fe.bufs ∧ t.ctx k = s.ctx k)

/-- One governor period steps the common clock C and the dither level H against the target G, the lower of the cap and
97 percent of P_MAX_W, as R526 gives it. -/
def GovernorSteps : Prop :=
  ∀ (s : State) (m : Nat), s.watching = true → s.pwr.sum? = some m →
    let g := min (s.rd Reg.PWR_CTRL.CAP_W) (97 * s.rd Reg.REF_CLAMP.P_MAX_W / 100)
    let c := s.rd Reg.PWR_STATUS.CLK_MHZ
    let h := s.rd Reg.PWR_STATUS.DITHER
    c ≤ 1900 → h ≤ 63 →
    ∃ t, exec .governorPeriod s = .next t ∧
      t.rd Reg.PWR_STATUS.CLK_MHZ =
        (if 100 * g < m then (if h = 0 ∧ 1200 < c then c - 25 else c)
         else if m < 95 * g then (if h = 0 ∧ c < 1900 then c + 25 else c) else c) ∧
      t.rd Reg.PWR_STATUS.DITHER =
        (if 100 * g < m then (if h = 0 ∧ 1200 < c then h else if h < 63 then h + 1 else h)
         else if m < 95 * g then (if 0 < h then h - 1 else h) else h) ∧
      (s.pwr.clamp = true → ∀ n ∈ s.computeIslands, s.clocked n = true → t.rd (Reg.ISL_STATE.FREQ_MHZ n) = 1200)

/-- In dither slot k a compute island that is not gated is held exactly when (k + i) mod 64 < H, and the slot count goes on
modulo 64 (R527). -/
def DitherHoldsIslands : Prop :=
  ∀ s : State, s.watching = true →
    ∃ t, exec .ditherSlot s = .next t ∧ t.pwr.slot = (s.pwr.slot + 1) % 64 ∧
      ∀ n ∈ s.computeIslands, s.islSt n ≠ Isl.GATED →
        t.hasCause n Cause.DITHER = decide ((s.pwr.slot + (20 * (n / 32) + n % 32)) % 64 < s.rd Reg.PWR_STATUS.DITHER)

/-- The power governor's period and the dither's slot. -/
def Obligations.GovernorAndDither : Prop := GovernorSteps ∧ DitherHoldsIslands

/-- A reading of an island whose sensors agree: voltage and junction show in ISL_STATE; at T_MAX_C the island is held, and goes
again below T_MAX_C less 5 °C where no neighbour holds it (R485, R531, R537). A stack at 95 °C or above reads HOT, below 90 °C it
does not (R536); at 85 °C or above MEM_REFRESH shows its doubled refresh rate (R287). -/
def SensorsReadAndHold : Prop :=
  (∀ (n mv c : Nat) (s : State), s.watching = true → s.sensed n = true → mv < 1024 → c < 110 →
    (∀ k, s.pwr.excluded.contains (n, k) = false) →
    ∃ t, exec (.sensorSample [⟨n, mv, [c, c, c, c]⟩] [] []) s = .next t ∧
      t.rd (Reg.ISL_STATE.VOLT_MV n) = mv ∧ t.rd (Reg.ISL_STATE.TEMP_C n) = c ∧
      (s.rd Reg.REF_CLAMP.T_MAX_C ≤ c → t.hasCause n Cause.REFEREE = true ∧ t.rd Reg.REF_CLAMP.HOLD_ACTIVE = 1 ∧
        (s.islSt n = Isl.RUN → s.rd (Reg.ISL_STATE.HOLD n) = 0 → t.islSt n = Isl.HELD)) ∧
      (c + 5 ≤ s.rd Reg.REF_CLAMP.T_MAX_C → t.hasCause n Cause.REFEREE = false ∧
        (s.islSt n = Isl.HELD → s.rd (Reg.ISL_STATE.HOLD n) = 2 ^ Cause.REFEREE →
          (∀ m ∈ meshNeighbours n, s.sensed m = false) → t.islSt n = Isl.RUN))) ∧
  ∀ (k c : Nat) (s : State), s.watching = true → s.stackList.contains k = true → c < 105 →
    ∃ t, exec (.sensorSample [] [] [(k, c)]) s = .next t ∧ t.rd (Reg.MEM_HBM_TEMP.TEMP_C k) = c ∧
      (95 ≤ c → t.on (Reg.MEM_HBM_TEMP.HOT k) = true) ∧ (c < 90 → t.rd (Reg.MEM_HBM_TEMP.HOT k) = 0) ∧
      bitOf (t.rd Reg.MEM_REFRESH.HOT) k = decide (85 ≤ c)

/-- The voltage trim of a compute island short of margin rises one step of 5 mV until it reaches its top; one that is not short
falls by a step or stays, and no other free value moves (R545, R5); a lane with
low margin counts a class C event and stays in service (R544). -/
def CalibrationTrimsAndReports : Prop :=
  ∀ s : State, s.watching = true →
    (∀ n, n < 512 → s.sensed n = true →
      (s.trim6 n < 12 → ∃ t, exec (.marginTrim n true) s = .next t ∧ t.trim6 n = s.trim6 n + 1 ∧ t.pwr = s.pwr) ∧
      (12 ≤ s.trim6 n → ∃ t, exec (.marginTrim n true) s = .next t ∧ t.trim6 n = s.trim6 n ∧ n ∈ t.pwr.short) ∧
      ∃ t, exec (.marginTrim n false) s = .next t ∧ t.trim6 n = s.trim6 n - b2n (Config.trimDown s.pwr.trims) ∧ t.free = s.free) ∧
    (∀ p l, p < 18 → s.portState p = Port.UP →
      ∃ t, exec (.laneMarginCheck false p l true) s = .next t ∧ t.portState p = Port.UP ∧
        t.rd Reg.FLT_CLASS_C.COUNT = min (s.rd Reg.FLT_CLASS_C.COUNT + 1) (2 ^ 64 - 1)) ∧
    ∀ p l, p < 6 → s.ethUp p = true →
      ∃ t, exec (.laneMarginCheck true p l true) s = .next t ∧ t.ethState p = s.ethState p ∧
        t.rd Reg.FLT_CLASS_C.COUNT = min (s.rd Reg.FLT_CLASS_C.COUNT + 1) (2 ^ 64 - 1)

/-- What sensors and margin monitors report moves held islands, trims and lanes. -/
def Obligations.SensorsAndCalibration : Prop := SensorsReadAndHold ∧ CalibrationTrimsAndReports

/-- A gate request for one running compute island whose tiles are all IDLE and unnamed starts its drain; one that fails the test, or
that comes while BUSY, sets REFUSED and moves no island (R539). -/
def GateRequestsDrainIdleIslands : Prop :=
  ∀ (n : Nat) (s : State), s.valid = true → s.stopped = false → n < 512 → n % 32 < 20 → s.dieFenced (n / 32) = false →
    (s.rd Reg.PWR_GATE_STATUS.BUSY = 0 → s.islSt n = Isl.RUN → s.gateIdle [n] = true →
      ∃ t, exec (.gateRequest (hostWrite (n + 2 ^ 12))) s = .next t ∧ t.islSt n = Isl.DRAINING ∧ t.rd Reg.PWR_GATE_STATUS.BUSY = 1 ∧
        t.pwr.gating = [n] ∧ ∀ j, j ≠ n → j < 1024 → t.islSt j = s.islSt j) ∧
    (s.rd Reg.PWR_GATE_STATUS.BUSY = 1 ∨ s.gateIdle [n] = false →
      ∃ t, exec (.gateRequest (hostWrite (n + 2 ^ 12))) s = .next t ∧ t.rd Reg.PWR_GATE_STATUS.REFUSED = 1 ∧
        ∀ j, j < 1024 → t.islSt j = s.islSt j)

/-- An ungate request takes a gated island to UNGATING; its ramp ends in RUN at floor. A drain ends in GATED,
with its tiles lost, once the window access accepted before it has completed; BUSY falls with the last island (R540, R541). -/
def IslandsGateAndUngate : Prop :=
  ∀ (n : Nat) (s : State), s.stopped = false → n < 512 → n % 32 < 20 →
    (s.valid = true → s.dieFenced (n / 32) = false → s.rd Reg.PWR_GATE_STATUS.BUSY = 0 → s.islSt n = Isl.GATED →
      ∃ t, exec (.ungateRequest (hostWrite (n + 2 ^ 11 + 2 ^ 12))) s = .next t ∧ t.islSt n = Isl.UNGATING ∧
        t.rd Reg.PWR_GATE_STATUS.BUSY = 1 ∧ t.pwr.gating = [n]) ∧
    (s.twPending n = true → exec (.islandDrainDone n) s = .next s) ∧
    (s.islSt n = Isl.DRAINING → s.twPending n = false → s.pwr.gating = [n] → s.pwr.nbr = [] →
      ∃ t, exec (.islandDrainDone n) s = .next t ∧ t.islSt n = Isl.GATED ∧ t.rd (Reg.ISL_STATE.FREQ_MHZ n) = 0 ∧
        t.rd Reg.PWR_GATE_STATUS.BUSY = 0 ∧
        (∀ k, s.tileIsland k = n → (t.tile k).st = .idle ∧ (t.tile k).sram = [] ∧ (t.tile k).unspec = true) ∧
        ∀ k, s.tileIsland k ≠ n → t.tile k = s.tile k) ∧
    (s.islSt n = Isl.UNGATING → s.pwr.gating = [n] → s.rd (Reg.ISL_STATE.HOLD n) = 0 →
      ∃ t, exec (.ungateRampDone n) s = .next t ∧ t.islSt n = Isl.RUN ∧ t.rd (Reg.ISL_STATE.FREQ_MHZ n) = 1200 ∧
        t.rd Reg.PWR_GATE_STATUS.BUSY = 0 ∧ t.tiles = s.tiles)

/-- An island on its way to GATED and back. -/
def Obligations.IslandsDrainGateAndUngate : Prop := GateRequestsDrainIdleIslands ∧ IslandsGateAndUngate

/-! ## Boot, pins and resets -/

/-- The power-up sequence: PWRGD samples the straps, and the boot ROM starts once the rails are up and PERST_N is
released, whichever comes last (R558). -/
def PowerUpReachesTheBootRom : Prop :=
  ∀ (addr sel : Nat) (s : State), addr < 8 → sel < 2 →
    (s.pins.pwrgd = false →
      ∃ t, exec (.pwrgdRise addr sel) s = .next t ∧ t.pins.pwrgd = true ∧ t.pins.railsUp = false ∧ t.stage = Stage.STANDBY ∧
        t.rd Reg.STRAP_STATUS.ADDR = addr ∧ t.rd Reg.STRAP_STATUS.REFCLK_SEL = sel) ∧
    (s.pins.pwrgd = true → s.pins.railsUp = false → s.stage = Stage.STANDBY →
      ∃ t, exec .railsUp s = .next t ∧ t.pins.railsUp = true ∧
        t.stage = if s.pins.perstN then Stage.ROM else Stage.STANDBY) ∧
    (s.pins.pwrgd = true → s.pins.perstN = false → s.pins.railsUp = true → s.stage = Stage.STANDBY →
      ∃ t, exec .perstRelease s = .next t ∧ t.pins.perstN = true ∧ t.stage = Stage.ROM ∧ t.pins.tRelease = s.now)

/-- The boot ROM boots the preferred slot where its image passes, else the other slot with FALLBACK, else the boot fails with
FAIL 1 (R476, R561). -/
def BootRomChoosesASlot : Prop :=
  ∀ (a b : Bool) (ms : Nat) (s : State), s.stage = Stage.ROM → s.cap.prefer < 2 →
    let good := fun n => s.cap.slotOk n (if n = 0 then a else b)
    ∃ t, exec (.fwVerifyDone a b ms) s = .next t ∧
      (good s.cap.prefer = true → t.stage = Stage.SCAN ∧ t.cap.booted = s.cap.prefer ∧ t.rd Reg.MB_FW_VERSION.FALLBACK = 0) ∧
      (good s.cap.prefer = false → good (1 - s.cap.prefer) = true →
        t.stage = Stage.SCAN ∧ t.cap.booted = 1 - s.cap.prefer ∧ t.rd Reg.MB_FW_VERSION.FALLBACK = 1) ∧
      (good 0 = false → good 1 = false → t.stage = Stage.FAILED ∧ t.rd Reg.BOOT_STATUS.FAIL = 1 ∧ t.cap = s.cap)

/-- The boot from power to verified firmware. -/
def Obligations.BootFromPowerToFirmware : Prop := PowerUpReachesTheBootRom ∧ BootRomChoosesASlot

/-- The fitness scan publishes its map: VALID reads 1, FW_READY 1, STAGE is READY, or UNFIT where more parts fail than may be
fenced; device memory stays where the fenced stack is as before (R66, R67, R291, R558). -/
def Obligations.FitnessScanPublishesTheMap : Prop :=
  ∀ (found : ScanFinding) (ms : Nat) (s : State), s.stage = Stage.SCAN →
    ∃ t m, exec (.fitnessScanDone found ms) s = .next t ∧ t.fit = some m ∧ m.bootSeq = s.bootSeq + 1 ∧ t.valid = true ∧
      t.rd Reg.MB_STATUS.FW_READY = 1 ∧ t.wdog = Wdog.RUNNING ∧
      t.stage = (if m.unfit then Stage.UNFIT else Stage.READY) ∧
      (m.fencedStack = s.lastMap.fencedStack → t.hbm = s.hbm ∧ t.poison = s.poison) ∧
      (found = ⟨[], [], [], [], [], []⟩ → s.lastMap.serves = [] → s.lastMap.benchFailed = [] → s.lastMap.fencedDie = none →
        s.lastMap.fencedStack = none → s.actsOn = [] → m.unfit = false ∧ m.fencedDie = none ∧ m.fencedStack = none ∧ m.serves = [])

/-- A write of CAP_W, by the host or the Captain, with a watt value the field takes leaves the cap there, at 1,150 W at least (R528); the
end of the fitness scan leaves VALID 1 and STAGE READY or UNFIT (R66, R558), and outside STAGE SCAN it changes nothing. -/
def Obligations.CapWritesAndScansComplete : Prop :=
  ∀ s : State,
    (∀ w : Wr, w.src ≠ .frontEnd → s.unreachable w.src Reg.PWR_CTRL.CAP_W.off = false → w.covers Reg.PWR_CTRL.CAP_W = true →
      w.field Reg.PWR_CTRL.CAP_W ≤ 3200 →
      ∃ t, exec (.capWrite w) s = .next t ∧ t.rd Reg.PWR_CTRL.CAP_W = max 1150 (w.field Reg.PWR_CTRL.CAP_W)) ∧
    ∀ (found : ScanFinding) (ms : Nat),
      (s.stage = Stage.SCAN →
        ∃ t, exec (.fitnessScanDone found ms) s = .next t ∧ t.valid = true ∧ (t.stage = Stage.READY ∨ t.stage = Stage.UNFIT)) ∧
      (s.stage ≠ Stage.SCAN → exec (.fitnessScanDone found ms) s = .next s)

/-- Every byte of host and device memory outside some ranges reads as before. -/
def OutsideSame (s t : State) (rs : List (Loc × Nat)) : Prop :=
  (∀ a, (∀ r ∈ rs, r.1.host = false → a < r.1.addr ∨ r.1.addr + r.2 ≤ a) → t.hbm.rdByte a = s.hbm.rdByte a) ∧
  ∀ a, (∀ r ∈ rs, r.1.host = true → a < r.1.addr ∨ r.1.addr + r.2 ≤ a) → t.hostMem.rdByte a = s.hostMem.rdByte a

/-- Every byte that no op in flight may still write reads as before. -/
abbrev SettledSame (s t : State) : Prop := OutsideSame s t (s.openOps.flatMap s.openRegions)

/-- A whole-device reset after a whistle keeps device memory that no op in flight may write, and poison, the black box, the step counter, the commit slot and the
alarms; contexts but 0 are FREE, tiles IDLE, grants, windows and write-once marks gone; CAUSE reads 1, RETAINED 1, and the boot ROM starts
(R500, R501). -/
def WholeDeviceResetKeepsAndClears : Prop :=
  ∀ s : State, s.stopped = true →
    ∃ t, exec .wholeDeviceReset s = .next t ∧ SettledSame s t ∧ t.poison = s.poison ∧ t.box = s.box ∧ t.ev.alarms = s.ev.alarms ∧
      t.rd Reg.SC_STEP.COUNT = s.rd Reg.SC_STEP.COUNT ∧ t.rd Reg.SC_STATUS.COMMIT_SLOT = s.rd Reg.SC_STATUS.COMMIT_SLOT ∧
      t.sc.reserve = s.sc.reserve ∧
      (∀ c, t.ctx c = Ctx.reset c) ∧ (∀ k, t.tile k = Tile.reset) ∧ t.qps = [] ∧ t.fe.relocs = [] ∧ t.wo1 = [] ∧
      t.rd Reg.REF_GRANT.LINK = 0 ∧ t.rd Reg.REF_GRANT.ETH = 0 ∧ (∀ a n w, t.windowAdmits a n w = false) ∧
      t.on Reg.GLOBAL_MODE.DET = false ∧ t.rd Reg.SC_STATUS.RETAINED = 1 ∧
      (s.pins.whistle = true → t.rd Reg.FLT_STATUS.CAUSE = 1) ∧ t.stopped = false ∧ t.stage = Stage.ROM ∧
      (s.phase = Phase.VOTING ∨ s.phase = Phase.PREPARED ∨ s.phase = Phase.PIN_WAIT → t.phase = Phase.IN_DOUBT)

/-- PERST_N asserting, and a Hot Reset, reset the whole device: CAUSE 2 with STAGE STANDBY, and CAUSE 3 with STAGE ROM; device memory
that no op in flight may write stays (R436, R504, R559). A loss of power ends in OFF with device memory and captured entries lost and the boot flash kept (R560). -/
def OtherResetsAndPowerLoss : Prop :=
  ∀ s : State,
    (s.pins.pwrgd = true → s.pins.perstN = true → s.pins.whistle = false →
      ∃ t, exec .perstAssert s = .next t ∧ t.stage = Stage.STANDBY ∧ t.rd Reg.FLT_STATUS.CAUSE = 2 ∧ t.pins.perstN = false ∧
        SettledSame s t ∧ ∀ k, t.tile k = Tile.reset) ∧
    (s.stage ≠ Stage.OFF → s.stage ≠ Stage.STANDBY → s.pins.whistle = false →
      ∃ t, exec .pcieHotReset s = .next t ∧ t.stage = Stage.ROM ∧ t.rd Reg.FLT_STATUS.CAUSE = 3 ∧ SettledSame s t ∧
        ∀ c, t.ctx c = Ctx.reset c) ∧
    (s.pins.pwrgd = true →
      ∃ t, exec .pwrgdFall s = .next t ∧ t.stage = Stage.OFF ∧ t.hbm = [] ∧ t.rd Reg.FLT_STATUS.CAUSE = 0 ∧ t.ev.faultLog = [] ∧
        t.fails = [] ∧ t.box.failList = s.box.failList ∧ t.cap.slotA = s.cap.slotA ∧ t.stopped = false)

/-- What each reset and a loss of power keep and clear. -/
def Obligations.ResetsKeepAndClear : Prop := WholeDeviceResetKeepsAndClears ∧ OtherResetsAndPowerLoss

/-- A class D fault in service sounds the whistle: every island stops, WHISTLE_N is driven, CAUSE, D_TYPE and the time are recorded,
STEP_FAULT set, and an alarm queued (R494, R500); while a boot goes on it fails the boot with FAIL 2 instead (R561). -/
def Obligations.ClassDFaultsSoundTheWhistle : Prop :=
  ∀ (f : FaultIn) (s : State), s.pins.pwrgd = true → classD.contains f.typ = true →
    (s.muted = false → s.stage = Stage.READY ∨ s.stage = Stage.UNFIT →
      ∃ t, exec (.whistle f) s = .next t ∧ t.stopped = true ∧ t.pins.whistle = true ∧ t.rd Reg.FLT_STATUS.CAUSE = 1 ∧
        t.rd Reg.FLT_STATUS.D_TYPE = f.typ % 2 ^ 16 ∧ t.rd Reg.FLT_WHISTLE_TIME.TIME = s.now % 2 ^ 64 ∧
        t.rd Reg.SC_STATUS.STEP_FAULT = 1 ∧ t.ev.alarms.any (fun a => a.ev.typ = f.typ) = true ∧
        ∀ c, c < 4096 → t.rd (Reg.FLT_WHISTLE_DONE.SEQ c) = s.rd (Reg.SB_DONE_SEQ.SEQ c) % 2 ^ 64) ∧
    (s.stage = Stage.ROM ∨ s.stage = Stage.SCAN →
      ∃ t, exec (.whistle f) s = .next t ∧ t.stage = Stage.FAILED ∧ t.rd Reg.BOOT_STATUS.FAIL = 2 ∧ t.stopped = s.stopped)

/-- The Captain stores what the retention buffer captured: fault-log entries at the head of the log, failures while the list has room,
each counted; WHISTLE_N is released (R500, R513, R514). -/
def BlackBoxIsStored : Prop :=
  ∀ s : State, s.captainUp = true →
    ∃ t, exec .blackboxStore s = .next t ∧ t.pins.whistle = false ∧ t.ev.faultLog = [] ∧ t.fails = [] ∧
      t.box.faultHead = s.box.faultHead + s.ev.faultLog.length ∧ t.box.failures = s.box.failures + s.fails.length ∧
      t.box.failList = s.box.failList ++ s.fails.take (1024 - s.box.failList.length) ∧
      (∀ e, s.ev.faultLog = [e] → mapGet? t.box.faultLog (s.box.faultHead % 4096) = some e) ∧
      (∀ m, s.fit = some m → s.valid = true → s.box.bootSeq ≠ s.bootSeq →
        t.box.bootSeq = s.bootSeq ∧ mapGet? t.box.maps (s.bootSeq % 8) = some m)

/-- A sensor request over the management bus is answered with the sensor's value once FW_READY reads 1, and not before (R555; the
numbering of the sensors is log entry 101). -/
def PldmRequestsAreAnswered : Prop :=
  ∀ (k : Nat) (s : State), s.outOfReset = true → k ≤ 28 →
    (s.on Reg.MB_STATUS.FW_READY = true →
      exec (.pldmRequest k) s = .next (s.send (.pldm k ((s.pldmSensor k).getD 0)))) ∧
    (s.on Reg.MB_STATUS.FW_READY = false → exec (.pldmRequest k) s = .next s) ∧
    s.pldmSensor 0 = some (s.rd Reg.PWR_STATUS.DRAW_W) ∧
    (17 ≤ k → s.pldmSensor k = some (s.rd (Reg.MEM_HBM_TEMP.TEMP_C (k - 17))))

/-- What leaves the device beside its links: the stored black box, and answers to PLDM. -/
def Obligations.BlackBoxAndPldm : Prop := BlackBoxIsStored ∧ PldmRequestsAreAnswered

/-! ## The Captain's mailbox -/

/-- Request `idx` of the Captain's queue asks for this opcode, and the Captain runs. -/
abbrev Asked (s : State) (idx opcode : Nat) (r : Req) : Prop :=
  s.captainUp = true ∧ s.cap.reqs[idx]? = some r ∧ r.opcode = opcode

/-- The request has left the queue, and its response with this status and payload stands behind those that wait. -/
abbrev Answered (s t : State) (idx : Nat) (r : Req) (status : Nat) (payload : List Nat) : Prop :=
  t.cap.reqs = s.cap.reqs.eraseIdx idx ∧ t.cap.resps = s.cap.resps ++ [response r.opcode r.tag status payload]

/-- MB_DOORBELL: IN while IN_BUSY reads 0 submits the request, while it reads 1 it is dropped with REJECT; ACK releases MB_OUT
(R464, R466). -/
def DoorbellsMoveTheBuffers : Prop :=
  ∀ s : State, s.valid = true →
    (s.rd Reg.MB_STATUS.IN_BUSY = 0 →
      ∃ t, exec (.mbDoorbellIn (hostWrite 1)) s = .next t ∧ t.rd Reg.MB_STATUS.IN_BUSY = 1 ∧
        t.rd Reg.MB_STATUS.REJECT = s.rd Reg.MB_STATUS.REJECT ∧ t.cap = s.cap) ∧
    (s.rd Reg.MB_STATUS.IN_BUSY = 1 →
      ∃ t, exec (.mbDoorbellIn (hostWrite 1)) s = .next t ∧ t.rd Reg.MB_STATUS.IN_BUSY = 1 ∧ t.rd Reg.MB_STATUS.REJECT = 1 ∧
        t.cap = s.cap) ∧
    ∃ t, exec (.mbDoorbellAck (hostWrite 2)) s = .next t ∧ t.rd Reg.MB_STATUS.OUT_VALID = 0 ∧
      t.rd Reg.MB_STATUS.IN_BUSY = s.rd Reg.MB_STATUS.IN_BUSY ∧ t.cap = s.cap

/-- The Captain takes a submitted request while it holds fewer than 32: IN_BUSY falls, and the request is logged or its header's
fault answered. While OUT_VALID reads 0 its oldest response goes into MB_OUT with OUT_VALID 1 and vector 1 (R464, R465, R466). -/
def CaptainAcceptsAndResponds : Prop :=
  ∀ s : State, s.captainUp = true →
    (s.rd Reg.MB_STATUS.IN_BUSY = 1 → s.cap.reqs.length + s.cap.resps.length < 32 →
      let r := reqOf s.cap.mbIn
      ∃ t, exec .mbAccept s = .next t ∧ t.rd Reg.MB_STATUS.IN_BUSY = 0 ∧
        (s.headStatus s.cap.mbIn r = none → t.cap.reqs = s.cap.reqs ++ [r] ∧ t.cap.resps = s.cap.resps) ∧
        ∀ st, s.headStatus s.cap.mbIn r = some st →
          t.cap.reqs = s.cap.reqs ∧ t.cap.resps = s.cap.resps ++ [response r.opcode r.tag st []]) ∧
    (s.rd Reg.MB_STATUS.IN_BUSY = 1 → 32 ≤ s.cap.reqs.length + s.cap.resps.length → exec .mbAccept s = .next s) ∧
    ∀ r rest, s.rd Reg.MB_STATUS.OUT_VALID = 0 → s.cap.resps = r :: rest →
      ∃ t, exec .mbResponse s = .next t ∧ t.rd Reg.MB_STATUS.OUT_VALID = 1 ∧ t.cap.resps = rest ∧
        t.cap.mbOut.take r.length = r ∧ (s.msixMasked 1 = false → t.sent = s.sent ++ [.msix 1])

/-- The mailbox's doorbells and the Captain's queue behind them. -/
def Obligations.MailboxBuffersAndQueue : Prop := DoorbellsMoveTheBuffers ∧ CaptainAcceptsAndResponds

/-- CTX_CREATE makes the lowest FREE context from 1 upwards ACTIVE with the attributes asked for and a scoreboard page at reset, or
answers BAD_VALUE, NO_RESOURCE or LIMIT and creates none (R469). -/
def ContextsAreCreated : Prop :=
  ∀ (s : State) (idx : Nat) (r : Req), Asked s idx Msg.CTX_CREATE r →
    let rank := leAt r.payload 0 1
    let rt := leAt r.payload 1 1
    let share := leAt r.payload 2 2
    let streams := leAt r.payload 4 4
    let outst := leAt r.payload 8 2
    let ms := leAt r.payload 12 4
    let good := rank ≠ 0 ∧ rt ≤ 1 ∧ share ≤ 256 ∧ streams ≤ 262144 ∧ 1 ≤ outst ∧ outst ≤ 4096 ∧ 1 ≤ ms ∧ ms ≤ 16777215
    (∀ c, good → 1 ≤ c → c ≤ 4095 → (s.ctx c).st = .free → (∀ d, 1 ≤ d → d < c → (s.ctx d).st ≠ .free) →
      (rt = 0 ∨ (s.rtCtxs.length < 64 ∧ s.rtShare + share ≤ 224) →
        ∃ t, exec (.ctxCreate idx) s = .next t ∧ Answered s t idx r Mb.OK (leBytes 2 c ++ [0, 0]) ∧
          (t.ctx c).st = .active ∧ (t.ctx c).rank = rank ∧ (t.ctx c).rt = decide (rt = 1) ∧ (t.ctx c).share = share ∧
          (t.ctx c).streams = streams ∧ (t.ctx c).outstanding = outst ∧ (t.ctx c).limitMs = ms ∧
          t.rd (Reg.SB_DONE_SEQ.SEQ c) = 0 ∧ t.rd (Reg.SB_ERR_SEQ.SEQ c) = 0 ∧ ∀ d, d ≠ c → t.ctx d = s.ctx d) ∧
      (rt = 1 → 64 ≤ s.rtCtxs.length ∨ 224 < s.rtShare + share →
        ∃ t, exec (.ctxCreate idx) s = .next t ∧ Answered s t idx r Mb.LIMIT [] ∧ t.ctxs = s.ctxs)) ∧
    (good → (∀ d, 1 ≤ d → d ≤ 4095 → (s.ctx d).st ≠ .free) →
      ∃ t, exec (.ctxCreate idx) s = .next t ∧ Answered s t idx r Mb.NO_RESOURCE [] ∧ t.ctxs = s.ctxs) ∧
    (¬good → ∃ t, exec (.ctxCreate idx) s = .next t ∧ Answered s t idx r Mb.BAD_VALUE [] ∧ t.ctxs = s.ctxs)

/-- CTX_SET_QUOTA sets the quotas of an ACTIVE context other than 0, and CTX_SET_TIMEOUT the LIMIT_MS of an ACTIVE one; a context
in another state is answered STATE and left (R470). -/
def ContextQuotasAndTimeouts : Prop :=
  ∀ (s : State) (idx : Nat) (r : Req),
    let c := leAt r.payload 0 2
    (Asked s idx Msg.CTX_SET_QUOTA r → c < 4096 → quotasOk (leAt r.payload 2 2) (leAt r.payload 4 4) (leAt r.payload 8 2) = true →
      ((s.ctx c).st = .active → c ≠ 0 → s.shareDenied c (leAt r.payload 2 2) (leAt r.payload 8 2) = false →
        ∃ t, exec (.ctxSetQuota idx) s = .next t ∧ Answered s t idx r Mb.OK [] ∧ (t.ctx c).share = leAt r.payload 2 2 ∧
          (t.ctx c).streams = leAt r.payload 4 4 ∧ (t.ctx c).outstanding = leAt r.payload 8 2 ∧ (t.ctx c).st = .active ∧
          ∀ d, d ≠ c → t.ctx d = s.ctx d) ∧
      ((s.ctx c).st ≠ .active ∨ c = 0 →
        ∃ t, exec (.ctxSetQuota idx) s = .next t ∧ Answered s t idx r Mb.STATE [] ∧ t.ctxs = s.ctxs)) ∧
    (Asked s idx Msg.CTX_SET_TIMEOUT r → c < 4096 → 1 ≤ leAt r.payload 4 4 → leAt r.payload 4 4 ≤ 16777215 →
      ((s.ctx c).st = .active ∨ (c = 0 ∧ (s.ctx c).st = .error) →
        ∃ t, exec (.ctxSetTimeout idx) s = .next t ∧ Answered s t idx r Mb.OK [] ∧ (t.ctx c).limitMs = leAt r.payload 4 4 ∧
          ∀ d, d ≠ c → t.ctx d = s.ctx d) ∧
      ((s.ctx c).st ≠ .active → c ≠ 0 →
        ∃ t, exec (.ctxSetTimeout idx) s = .next t ∧ Answered s t idx r Mb.STATE [] ∧ t.ctxs = s.ctxs))

/-- QP_CREATE takes the lowest FREE queue pair from 2 upwards on its port and one stream context of the port's hub, for an ACTIVE
owner; QP_FREE frees one that no op uses, and answers STATE for one in use (R471). -/
def QueuePairsAreCreatedAndFreed : Prop :=
  ∀ (s : State) (idx : Nat) (r : Req),
    (Asked s idx Msg.QP_CREATE r →
      let c := leAt r.payload 0 2
      let port := leAt r.payload 2 1
      c < 4096 → port < 6 → leAt r.payload 3 1 < 64 → leAt r.payload 4 4 < 2 ^ 24 → leAt r.payload 8 4 < 2 ^ 24 →
      leAt r.payload 12 4 < 2 ^ 24 → leAt r.payload 32 2 = 0xFFFF ∨ leAt r.payload 32 2 < 4096 →
      (∀ n, (s.ctx c).st = .active → 2 ≤ n → n ≤ 16385 → s.qp? port n = none → (∀ m, 2 ≤ m → m < n → s.qp? port m ≠ none) →
        s.unitFree (16 + port / 2) ≠ 0 →
        ∃ t, exec (.qpCreate idx) s = .next t ∧ Answered s t idx r Mb.OK (leBytes 4 n) ∧
          t.qps = s.qps ++ [⟨port, n, c, false, leAt r.payload 3 1, leAt r.payload 4 4, leAt r.payload 8 4, leAt r.payload 12 4,
            leAt r.payload 16 16, leAt r.payload 32 2⟩] ∧
          t.se.holds = s.se.holds ++ [⟨c, 16 + port / 2, .qp port n, .held⟩]) ∧
      ((s.ctx c).st ≠ .active →
        ∃ t, exec (.qpCreate idx) s = .next t ∧ Answered s t idx r Mb.STATE [] ∧ t.qps = s.qps ∧ t.se = s.se)) ∧
    (∀ q, Asked s idx Msg.QP_FREE r → leAt r.payload 0 1 < 6 → 2 ≤ leAt r.payload 4 4 → leAt r.payload 4 4 ≤ 16385 →
      s.qp? (leAt r.payload 0 1) (leAt r.payload 4 4) = some q →
      ((s.allOps.any fun o => o.1.ctx = q.owner && o.2.usesQp (leAt r.payload 0 1) (leAt r.payload 4 4)) = false →
        ∃ t, exec (.qpFree idx) s = .next t ∧ Answered s t idx r Mb.OK [] ∧ t.qp? (leAt r.payload 0 1) (leAt r.payload 4 4) = none) ∧
      ((s.allOps.any fun o => o.1.ctx = q.owner && o.2.usesQp (leAt r.payload 0 1) (leAt r.payload 4 4)) = true →
        ∃ t, exec (.qpFree idx) s = .next t ∧ Answered s t idx r Mb.STATE [] ∧ t.qps = s.qps))

/-- The messages over contexts and queue pairs. -/
def Obligations.ContextAndQueuePairMessages : Prop :=
  ContextsAreCreated ∧ ContextQuotasAndTimeouts ∧ QueuePairsAreCreatedAndFreed

/-- GET_VERSION answers with the running version, build, slot and fallback; BLACKBOX_READ with the bytes asked for; IMAGE_CHECK with
CRC and tile count of an image that passes; the first two change no register and no byte of the black box, the last no image and no
tile (R468, R472). -/
def CaptainReports : Prop :=
  ∀ (s : State) (idx : Nat) (r : Req),
    (Asked s idx Msg.GET_VERSION r → s.cap.svnFused < 256 →
      ∃ t, exec (.getVersion idx) s = .next t ∧ Answered s t idx r Mb.OK
        (leBytes 4 (s.regWord 0x30010) ++ leBytes 4 (((s.cap.slot s.cap.booted).map (·.build)).getD 0) ++
          [s.rd Reg.MB_FW_VERSION.SLOT, s.rd Reg.MB_FW_VERSION.FALLBACK, s.cap.svnFused, 0]) ∧ t.regs = s.regs ∧ t.box = s.box) ∧
    (Asked s idx Msg.BLACKBOX_READ r → 1 ≤ leAt r.payload 4 4 → leAt r.payload 4 4 ≤ 4080 →
      leAt r.payload 0 4 + leAt r.payload 4 4 ≤ 1048576 →
      ∃ t, exec (.blackboxRead idx) s = .next t ∧
        Answered s t idx r Mb.OK (s.box.read (leAt r.payload 0 4) (leAt r.payload 4 4)) ∧ t.regs = s.regs ∧ t.box = s.box) ∧
    ∀ img, Asked s idx Msg.IMAGE_CHECK r → leAt r.payload 12 1 < 5 → leAt r.payload 0 8 + leAt r.payload 8 4 ≤ s.reserve →
      s.kindOk (leAt r.payload 12 1) img = true →
      ∃ t, exec (.imageCheck idx img) s = .next t ∧
        Answered s t idx r Mb.OK (leBytes 4 img.crc ++ leBytes 4 img.segs.length ++ leBytes 4 0xFFFFFFFF) ∧
        t.configs = s.configs ∧ t.tiles = s.tiles

/-- CAL_CONFIG writes the calibration settings, and answers STATE where it would change the places while CAL_EN reads 1; CAL_REFIT
with the host as owner is answered STATE, one for the active generation BAD_VALUE; an image that fits goes to OUT and nowhere else,
and one that does not is answered BAD_VALUE (R473, R474). What the image
holds is a free value (log entry 4). -/
def Obligations.CalibrationMessages : Prop :=
  ∀ (s : State) (idx : Nat) (r : Req),
    (Asked s idx Msg.CAL_CONFIG r →
      let stage := leAt r.payload 0 8
      let log := leAt r.payload 8 8
      let log2 := leAt r.payload 16 1
      stage < 2 ^ 48 → stage % 2 ^ 13 = 0 → log < 2 ^ 48 → log % 2 ^ 7 = 0 → 4 ≤ log2 → log2 ≤ 24 →
      leAt r.payload 17 1 ≤ 1 → leAt r.payload 18 1 ≤ 1 →
      (s.on Reg.POLICY_CTRL.CAL_EN = false →
        ∃ t, exec (.calConfig idx) s = .next t ∧ Answered s t idx r Mb.OK [] ∧ t.rd Reg.CAL_STAGE_BASE.ADDR = stage ∧
          t.rd Reg.CAL_LOG_BASE.ADDR = log ∧ t.rd Reg.CAL_LOG_SIZE.LOG2 = log2 ∧
          t.rd Reg.POLICY_CTRL.CAL_OWNER = leAt r.payload 17 1 ∧ t.rd Reg.POLICY_CTRL.CAL_EN = leAt r.payload 18 1) ∧
      (s.on Reg.POLICY_CTRL.CAL_EN = true → leAt r.payload 18 1 = 1 → stage ≠ s.rd Reg.CAL_STAGE_BASE.ADDR →
        ∃ t, exec (.calConfig idx) s = .next t ∧ Answered s t idx r Mb.STATE [] ∧ t.regs = s.regs)) ∧
    (Asked s idx Msg.CAL_REFIT r →
      (s.on Reg.POLICY_CTRL.CAL_OWNER = false →
        ∃ t, exec (.calRefit idx) s = .next t ∧ Answered s t idx r Mb.STATE [] ∧ t.regs = s.regs ∧ t.hbm = s.hbm) ∧
      let job : Config.Refit := ⟨keepLast ((s.logEntries.filter fun e =>
        decide (leAt r.payload 0 8 ≤ leAt e.2 0 8) && decide (leAt e.2 0 8 ≤ leAt r.payload 8 8)).map (·.2)), s.ensemble,
        leAt r.payload 16 4, leAt r.payload 20 1⟩
      let out := leAt r.payload 24 8
      let n := Config.refitLength job
      (leAt r.payload 20 1 = s.rd Reg.POLICY_CTRL.ACTIVE_GEN → s.on Reg.POLICY_CTRL.CAL_OWNER = true →
        ∃ t, exec (.calRefit idx) s = .next t ∧ Answered s t idx r Mb.BAD_VALUE [] ∧ t.regs = s.regs ∧ t.hbm = s.hbm) ∧
      (s.on Reg.POLICY_CTRL.CAL_OWNER = true → leAt r.payload 20 1 ≤ 3 →
        leAt r.payload 20 1 ≠ s.rd Reg.POLICY_CTRL.ACTIVE_GEN → s.poison = [] →
        ∃ t, exec (.calRefit idx) s = .next t ∧ t.cap.reqs = s.cap.reqs.eraseIdx idx ∧
          t.cap.resps.length = s.cap.resps.length + 1 ∧
          (n ≤ leAt r.payload 32 4 → out + n ≤ s.reserve →
            Memory.stored s.hbm t.hbm out ((List.range n).map fun i => (Config.refitByte job i).toNat)) ∧
          (leAt r.payload 32 4 < n → Answered s t idx r Mb.BAD_VALUE [] ∧ t.regs = s.regs ∧ t.hbm = s.hbm)))

/-- FW_UPDATE with an image that passes R476 writes the slot not booted and prefers it, and with one that fails answers AUTH; the
fused minimum only rises, up to the running image's SVN (R477). -/
def FirmwareUpdates : Prop :=
  ∀ (s : State) (idx : Nat) (r : Req) (h : FwHead),
    (Asked s idx Msg.FW_UPDATE r → leAt r.payload 0 8 + leAt r.payload 8 4 ≤ s.reserve →
      (s.cap.accepts h = true →
        ∃ t, exec (.fwUpdate idx h) s = .next t ∧ Answered s t idx r Mb.OK [1 - s.cap.booted, 0, 0, 0] ∧
          t.cap.slot (1 - s.cap.booted) = some h ∧ t.cap.prefer = 1 - s.cap.booted ∧ t.cap.booted = s.cap.booted ∧
          (s.cap.booted < 2 → t.cap.slot s.cap.booted = s.cap.slot s.cap.booted)) ∧
      (s.cap.accepts h = false →
        ∃ t, exec (.fwUpdate idx h) s = .next t ∧ Answered s t idx r Mb.AUTH [] ∧ t.cap.slotA = s.cap.slotA ∧
          t.cap.slotB = s.cap.slotB ∧ t.cap.prefer = s.cap.prefer)) ∧
    (Asked s idx Msg.FW_SVN_COMMIT r →
      let v := leAt r.payload 0 1
      (s.cap.svnFused ≤ v → v ≤ s.rd Reg.MB_FW_VERSION.SVN →
        ∃ t, exec (.fwSvnCommit idx) s = .next t ∧ Answered s t idx r Mb.OK [] ∧ t.cap.svnFused = v) ∧
      (v < s.cap.svnFused ∨ s.rd Reg.MB_FW_VERSION.SVN < v →
        ∃ t, exec (.fwSvnCommit idx) s = .next t ∧ Answered s t idx r Mb.BAD_VALUE [] ∧ t.cap.svnFused = s.cap.svnFused))

/-- The messages that report and those that update firmware. -/
def Obligations.CaptainReportsAndUpdates : Prop := CaptainReports ∧ FirmwareUpdates

/-- A write of PENDING_GEN stores it; FLIP_PENDING shows whether it differs from ACTIVE_GEN (R176). -/
def PendingGenerationShowsAFlip : Prop :=
  ∀ (v : Nat) (s : State), s.valid = true →
    ∃ t, exec (.pendingGenWrite (hostWrite v)) s = .next t ∧ t.rd Reg.POLICY_CTRL.PENDING_GEN = bitsOf v 2 2 ∧
      t.rd Reg.POLICY_CTRL.ACTIVE_GEN = s.rd Reg.POLICY_CTRL.ACTIVE_GEN ∧
      t.view Reg.POLICY_STATUS.FLIP_PENDING = if bitsOf v 2 2 = s.rd Reg.POLICY_CTRL.ACTIVE_GEN then 0 else 1

/-! ## Front end -/

/-- A range that an access of an op reaches: a DMA window admits it, or it lies below the device reserve and clear of poisoned
sectors. -/
abbrev Reached (s : State) (l : Loc) (n : Nat) (write : Bool) : Prop :=
  if l.host then s.windowAdmits l.addr n write = true
  else l.addr + n ≤ s.reserve ∧ ∀ p ∈ s.poison, p + 32 ≤ l.addr / 32 * 32 ∨ l.addr + n + 32 ≤ p

/-- Bytes stored at a place in host or device memory, and nowhere else in either. -/
def StoredAt (s t : State) (l : Loc) (bs : List Nat) : Prop :=
  if l.host then Memory.stored s.hostMem t.hostMem l.addr bs ∧ t.hbm = s.hbm
  else Memory.stored s.hbm t.hbm l.addr bs ∧ t.hostMem = s.hostMem

/-- The trace ring is off, so that no event writes device memory. -/
abbrev Untraced (s : State) : Prop := s.on Reg.FLT_TRC_CTRL.EN = false

/-- An ACTIVE context has failed: it is in ERROR and a discard order for it is out. -/
def Failed (s t : State) (c : Nat) : Prop :=
  (s.ctx c).st = .active → (t.ctx c).st = .error ∧ (t.ctx c).discard.isSome = true ∧ ∀ b ∈ t.fe.bufs, b.ctx ≠ c

/-- The submission ring's registers: an enable samples base and size and moves HEAD to TAIL; a disable stops fetch and leaves HEAD;
a doorbell publishes descriptors and sets RING_ERR where more stand than the ring holds (R298, R299). -/
def SubmissionRingRegisters : Prop :=
  ∀ (v : Nat) (s : State), s.valid = true →
    (bitsOf v 0 1 = 1 → s.on Reg.SUBQ_CTRL.EN = false →
      ∃ t, exec (.subqEnable (hostWrite v)) s = .next t ∧ t.fe.on = true ∧ t.fe.base = 64 * s.rd Reg.SUBQ_BASE.ADDR ∧
        t.fe.sizeLog2 = t.rd Reg.SUBQ_CTRL.SIZE_LOG2 ∧ t.rd Reg.SUBQ_HEAD.HEAD = s.rd Reg.SUBQ_TAIL.TAIL % 2 ^ 32 ∧
        t.rd Reg.SUBQ_CTRL.EN = 1 ∧ t.fe.bufs = s.fe.bufs ∧
        t.rd Reg.SUBQ_CTRL.SIZE_LOG2 =
          if 4 ≤ bitsOf v 1 5 ∧ bitsOf v 1 5 ≤ 16 then bitsOf v 1 5 else s.rd Reg.SUBQ_CTRL.SIZE_LOG2) ∧
    (bitsOf v 0 1 = 0 →
      ∃ t, exec (.subqDisable (hostWrite v)) s = .next t ∧ t.fe.on = false ∧ t.rd Reg.SUBQ_CTRL.EN = 0 ∧
        t.rd Reg.SUBQ_HEAD.HEAD = s.rd Reg.SUBQ_HEAD.HEAD ∧ t.fe.bufs = s.fe.bufs ∧ t.fe.desc = s.fe.desc) ∧
    ∃ t, exec (.subqTailWrite (hostWrite v)) s = .next t ∧ t.rd Reg.SUBQ_TAIL.TAIL = v % 2 ^ 32 ∧
      t.rd Reg.SUBQ_HEAD.HEAD = s.rd Reg.SUBQ_HEAD.HEAD ∧ t.fe = s.fe ∧
      (s.fe.on = true → 2 ^ s.fe.sizeLog2 < (v % 2 ^ 32 + 2 ^ 32 - s.rd Reg.SUBQ_HEAD.HEAD) % 2 ^ 32 →
        t.rd Reg.FE_STATUS.RING_ERR = 1) ∧
      (s.fe.on = false ∨ (v % 2 ^ 32 + 2 ^ 32 - s.rd Reg.SUBQ_HEAD.HEAD) % 2 ^ 32 ≤ 2 ^ s.fe.sizeLog2 →
        t.rd Reg.FE_STATUS.RING_ERR = s.rd Reg.FE_STATUS.RING_ERR)

/-- A published descriptor that reads well is consumed: its context's failed check sends the context to ERROR with the check's code
as LAST_ERR and the SEQ in SB_ERR_SEQ; a context that is not ACTIVE skips it; otherwise its buffer is fetched next. A refused
read consumes nothing (R300, R301, R302, R317, R318). -/
def DescriptorsAreChecked : Prop :=
  ∀ (s : State) (a : Nat), s.descAddr? = some a →
    (s.windowAdmits a 64 false = false →
      ∃ t, exec (.descriptorCheck false) s = .next t ∧ t.rd Reg.SUBQ_HEAD.HEAD = s.rd Reg.SUBQ_HEAD.HEAD ∧ t.fe = s.fe ∧
        t.rd Reg.REF_STATUS.DENY_SEEN = 1) ∧
    ∀ (d : Desc) (bad : Bool), s.windowAdmits a 64 false = true → descOf (s.hostMem.rdBytes a 64) = (d, bad) →
      ∃ t, exec (.descriptorCheck false) s = .next t ∧ t.rd Reg.SUBQ_HEAD.HEAD = (s.rd Reg.SUBQ_HEAD.HEAD + 1) % 2 ^ 32 ∧
        ((s.ctx d.ctx).st ≠ .active → t.fe = s.fe ∧ t.ctxs = s.ctxs) ∧
        ((s.ctx d.ctx).st = .active → s.descCode d bad = none → t.fe.desc = some d ∧ t.fe.bufs = s.fe.bufs ∧ t.ctxs = s.ctxs) ∧
        ∀ code, (s.ctx d.ctx).st = .active → s.descCode d bad = some code →
          t.fe.desc = none ∧ Failed s t d.ctx ∧ (t.ctx d.ctx).lastErr = code ∧
          t.rd (Reg.SB_ERR_SEQ.SEQ d.ctx) = d.seq % 2 ^ 64

/-- The submission ring: its registers, and the descriptors read from it. -/
def Obligations.SubmissionRingIsRead : Prop := SubmissionRingRegisters ∧ DescriptorsAreChecked

/-- The buffer of an accepted descriptor is fetched whole and checked: one that passes joins the buffers in flight with its SEQ the
context's last; one that fails a check sends the context to ERROR with the check's code (R304, R317, R318, R323). -/
def Obligations.BuffersAreChecked : Prop :=
  ∀ (s : State) (imgs : List (Nat × Image)) (d : Desc), s.fe.desc = some d → s.stopped = false → Reached s d.loc d.len false →
    let bs := s.read d.loc d.len
    s.inFlight + leAt bs 4 4 ≤ 65536 →
    (∀ ops, s.checkBuffer imgs d.ctx bs d.len = .ok ops →
      (∀ b ∈ s.fe.bufs, b.wait = true → b.waitMet = true ∨ (s.ctx b.waitCtx).st = .active) →
      (d.wait = true → (s.ctx d.waitCtx).st = .active) →
      ∃ t b, exec (.bufferCheck imgs false []) s = .next t ∧ t.fe.desc = none ∧ t.fe.bufs.length = s.fe.bufs.length + 1 ∧
        t.fe.bufs.getLast? = some b ∧ b.ctx = d.ctx ∧ b.seq = d.seq ∧ b.order = d.order ∧ b.wait = d.wait ∧ b.ops = ops ∧
        (t.ctx d.ctx).lastSeq = some d.seq ∧ (t.ctx d.ctx).st = (s.ctx d.ctx).st) ∧
    ∀ code off id, s.checkBuffer imgs d.ctx bs d.len = .error (code, off, id) → (s.ctx d.ctx).st = .active →
      ∃ t, exec (.bufferCheck imgs false []) s = .next t ∧ t.fe.desc = none ∧ Failed s t d.ctx ∧ (t.ctx d.ctx).lastErr = code ∧
        t.rd (Reg.SB_ERR_SEQ.SEQ d.ctx) = d.seq % 2 ^ 64 ∧
        t.rd Reg.FE_COUNT1.REJECTED = Reg.FE_COUNT1.REJECTED.counted (s.rd Reg.FE_COUNT1.REJECTED) 1

/-- An op waits while another that could take the same tiles or the step controller goes before it (R324); one whose predecessors,
tiles, quotas, stream contexts and trees allow it takes the on-deck slots of its tiles (R319, R325, R335, R354). One that is ready starts running with its slots resolved and DET, step and limit sampled, a SNAPSHOT with the committed slot
pinned, or fails with BAD_INDIRECT (R316, R320, R391). One whose effect is whole completes: its tiles go on, and the last op of the context's only buffer advances SB_DONE_SEQ (R304,
R322). -/
def Obligations.OpsStageDispatchAndComplete : Prop :=
  ∀ (k : OpKey) (s : State) (b : Buf) (o : Op), s.op? k = some o → s.buf? k.ctx k.seq = some b →
    (o.st = .waiting ∨ o.st = .staged → s.outranked k o = true →
      exec (if o.st = .waiting then .opStage k else .opDispatch k []) s = .next s) ∧
    (∀ s1, o.st = .waiting → b.predsNear o = true → s.outranked k o = false →
      let tiles := if s.inBand k o then [] else o.tiles
      (∀ x ∈ tiles, (s.tile x).deck = none ∧ (s.tile x).admits k.ctx o = true) →
      (∀ x ∈ o.tiles, s.islSt (s.tileIsland x) = Isl.RUN ∨ s.islSt (s.tileIsland x) = Isl.HELD) →
      s.tilesAdmitted k.ctx tiles = true →
      (s.reserveAll k.ctx (s.contextsFor k b o)).bind (fun u => u.grantTrees k o) = some s1 →
      ∃ t, exec (.opStage k) s = .next t ∧ t.opHas k .staged ∧ (∀ x ∈ tiles, (t.tile x).deck = some k) ∧
        (∀ x, x ∉ tiles → t.tile x = s.tile x) ∧ t.se.holds = s1.se.holds ∧ t.se.trees = s1.se.trees ∧ t.regs = s.regs) ∧
    (o.st = .staged → b.predsDone o = true → s.rootReady b o = true →
      (∀ x ∈ o.tiles, (s.tile x).deck = some k → (s.tile x).running = none) → s.heldStaged o = false →
      s.outranked k o = false →
      (∀ l ∈ o.opnds.flatMap Opnd.indLocs, Reached s l.1 l.2 false) → s.phase ≠ Phase.IN_DOUBT →
      let opnds := o.opnds.map fun x => x.resolve s
      (dispatchOk o opnds = true →
        ∃ t o', exec (.opDispatch k []) s = .next t ∧ t.opAt k = some o' ∧ o'.st = .running ∧ o'.opnds = opnds ∧
          o'.det = s.on Reg.GLOBAL_MODE.DET ∧ o'.step = s.rd Reg.SC_STEP.COUNT ∧ o'.t0 = s.now ∧
          o'.limit = (s.ctx k.ctx).limitMs ∧
          (o.cls = Cls.STEP → o.code = 1 →
            o'.work = .snap (s.rd Reg.SC_STATUS.COMMIT_SLOT) ((s.rd Reg.SC_STEP.COUNT + 2 ^ 64 - 1) % 2 ^ 64) [] false ∧
            t.rd (pinFld (s.rd Reg.SC_STATUS.COMMIT_SLOT)) = (s.rd (pinFld (s.rd Reg.SC_STATUS.COMMIT_SLOT)) + 1) % 2 ^ 4) ∧
          ∀ x ∈ o.tiles, s.inBand k o = false → (s.tile x).deck = some k → (t.tile x).running = some k) ∧
      (dispatchOk o opnds = false → ∃ t, exec (.opDispatch k []) s = .next t ∧ Failed s t k.ctx)) ∧
    (o.st = .executed → s.recordsLeft k = false →
      ∃ t, exec (.opComplete k) s = .next t ∧ t.opOver k ∧ (∀ x, (s.tile x).running = some k → (t.tile x).running = none) ∧
        ((s.fe.bufs.filter fun x => x.ctx = k.ctx) = [b] → (∀ p ∈ b.ops, p.id ≠ k.id → p.st = .done) →
          t.rd (Reg.SB_DONE_SEQ.SEQ k.ctx) = k.seq % 2 ^ 64 ∧ ∀ x ∈ t.fe.bufs, x.ctx ≠ k.ctx))

/-- An op that runs beyond its LIMIT_MS, what it was held left out, and a discard order without quiet beyond the LIMIT_MS in force when it was sent, sound the
whistle (R327, R328; the running time of an op of a stream starts anew with each result it delivers, R234). A class Q fault sends its context to ERROR with the oldest buffer's SEQ in SB_ERR_SEQ, and its tiles to QUIET (R61,
R296, R492). Quiet, which waits for the transfers that discarded ops still have outstanding, releases a DUGOUT context with its tiles and queue
pairs to FREE, and returns context 0 to ACTIVE (R296, R329). -/
def Obligations.TimeoutsFaultsAndQuiet : Prop :=
  ∀ s : State, s.stopped = false →
    (∀ (k : OpKey) (o : Op), s.op? k = some o → o.st = .running ∨ o.st = .executed →
      (s.ranFor o ≤ o.limit * 1000000 → exec (.opTimeout k) s = .next s) ∧
      (o.limit * 1000000 < s.ranFor o → s.muted = false → s.stage = Stage.READY →
        ∃ t, exec (.opTimeout k) s = .next t ∧ t.stopped = true ∧ t.pins.whistle = true ∧
          t.rd Reg.FLT_STATUS.D_TYPE = Ev.OP_TIMEOUT)) ∧
    (∀ (c limit t0 : Nat), (s.ctx c).discard = some (limit, t0) →
      (s.now - t0 ≤ limit * 1000000 → exec (.quietTimeout c) s = .next s) ∧
      (limit * 1000000 < s.now - t0 → s.muted = false → s.stage = Stage.READY →
        ∃ t, exec (.quietTimeout c) s = .next t ∧ t.stopped = true ∧ t.pins.whistle = true ∧
          t.rd Reg.FLT_STATUS.D_TYPE = Ev.QUIET_TIMEOUT)) ∧
    (∀ (c : Nat) (f : FaultIn), (s.ctx c).st = .active → classQ.contains f.typ = true → f.typ ≠ Ev.SRAM_UE →
      ∃ t, exec (.contextFault c f) s = .next t ∧ Failed s t c ∧ t.rd (Reg.SB_ERR_SEQ.SEQ c) = s.oldestSeq c % 2 ^ 64 ∧
        t.rd (Reg.SB_STATE.ERRORS c) = min (s.rd (Reg.SB_STATE.ERRORS c) + 1) 0xFFFF ∧
        ∀ x k, (s.tile x).running = some k → k.ctx = c → (t.tile x).running = none ∧
          (t.tile x).st = if (s.tile x).st = .idle then .idle else .quiet) ∧
    ∀ c : Nat, (s.ctx c).discard.isSome = true →
      (((s.droppedOf c).any fun o => o.outstanding != 0) = true → exec (.contextQuiet c) s = .next s) ∧
      (((s.droppedOf c).any fun o => o.outstanding != 0) = false → (s.ctx c).st = .dugout →
        ∃ t, exec (.contextQuiet c) s = .next t ∧ t.ctx c = Ctx.reset c ∧
          (∀ x, (s.tile x).ctx = c → (s.tile x).st ≠ .idle → (t.tile x).st = .idle) ∧ (∀ q ∈ t.qps, q.owner ≠ c) ∧ (∀ h ∈ t.se.holds, h.ctx ≠ c) ∧
          (∀ r ∈ t.fe.relocs, r.ctx ≠ c) ∧ ∀ k ∈ s.destroyers c, t.opOver k) ∧
      (((s.droppedOf c).any fun o => o.outstanding != 0) = false → (s.ctx c).st = .error →
        ∃ t, exec (.contextQuiet c) s = .next t ∧ (t.ctx c).discard = none ∧
          (t.ctx c).st = if c = 0 then .active else .error)

/-- The kernel's ops complete with their effects: NOP none; SET_SHARE the quotas, or nothing where they are denied; MAP_HANDLE a
relocation entry, or nothing where it is refused; UNMAP_HANDLE none left for the handle; DESTROY_CONTEXT sends its target to the dugout and waits, also in the cycle of a failed check of
the target (R311, R313, R314, R329, R332). -/
def Obligations.KernelOpsTakeEffect : Prop :=
  ∀ (k : OpKey) (s : State) (o : Op),
    (s.opIs k Cls.SYNC 0 .running = some o → ∃ t, exec (.nop k) s = .next t ∧ t.opOver k ∧ t.ctxs = s.ctxs) ∧
    (s.opIs k Cls.SYNC 5 .running = some o →
      (s.shareDenied (o.num 0) (o.num 1) (o.num 3) = false →
        ∃ t, exec (.setShare k) s = .next t ∧ t.opOver k ∧ (t.ctx (o.num 0)).share = o.num 1 ∧
          (t.ctx (o.num 0)).streams = o.num 2 ∧ (t.ctx (o.num 0)).outstanding = o.num 3 ∧
          (t.ctx (o.num 0)).st = (s.ctx (o.num 0)).st ∧ ∀ d, d ≠ o.num 0 → t.ctx d = s.ctx d) ∧
      (s.shareDenied (o.num 0) (o.num 1) (o.num 3) = true →
        ∃ t, exec (.setShare k) s = .next t ∧ t.opOver k ∧ t.ctxs = s.ctxs)) ∧
    (∀ failing, s.opIs k Cls.SYNC 6 .running = some o → o.work = .none →
      ((s.ctx (o.num 0)).st = .free → ∃ t, exec (.destroyContext k failing) s = .next t ∧ t.opOver k ∧ t.ctxs = s.ctxs) ∧
      ((s.ctx (o.num 0)).st = .active →
        ∃ t, exec (.destroyContext k failing) s = .next t ∧ (t.ctx (o.num 0)).st = .dugout ∧
          (t.ctx (o.num 0)).discard.isSome = true ∧ ∀ b ∈ t.fe.bufs, b.ctx ≠ o.num 0) ∧
      ((s.ctx (o.num 0)).st = .error →
        ∃ t, exec (.destroyContext k failing) s = .next t ∧ (t.ctx (o.num 0)).st = .dugout ∧
          (t.ctx (o.num 0)).discard.isSome = true)) ∧
    (s.opIs k Cls.SYNC 7 .running = some o →
      let c := o.num 0
      let h := o.num 1
      let room := (s.fe.relocs.filter fun r => !(r.ctx = c && r.handle = h)).length < 1048576
      (s.mappable c = true → room → o.num 2 = 1 ∨ o.num 4 + o.num 5 ≤ s.reserve → h ≠ 0 →
        ∃ t, exec (.mapHandle k) s = .next t ∧ t.opOver k ∧
          t.reloc? c h = some ⟨c, h, decide (o.num 2 = 1), o.num 4, o.num 5, o.num 3⟩ ∧
          ∀ c' h', ¬(c' = c ∧ h' = h) → t.reloc? c' h' = s.reloc? c' h') ∧
      (s.mappable c = false ∨ ¬room ∨ (o.num 2 ≠ 1 ∧ s.reserve < o.num 4 + o.num 5) →
        ∃ t, exec (.mapHandle k) s = .next t ∧ t.opOver k ∧ t.fe.relocs = s.fe.relocs)) ∧
    (s.opIs k Cls.SYNC 8 .running = some o →
      (s.mappable (o.num 0) = true →
        ∃ t, exec (.unmapHandle k) s = .next t ∧ t.opOver k ∧ t.reloc? (o.num 0) (o.num 1) = none ∧
          ∀ c h, ¬(c = o.num 0 ∧ h = o.num 1) → t.reloc? c h = s.reloc? c h) ∧
      (s.mappable (o.num 0) = false →
        ∃ t, exec (.unmapHandle k) s = .next t ∧ t.opOver k ∧ t.fe.relocs = s.fe.relocs))

/-! ## Tensor work -/

/-- A BF16 element of an operand. -/
def bf16At (s : State) (l : Loc) (i : Nat) : Sys2Proof.Machine.Num := bf16Val (s.readNat (l.plus (2 * i)) 2)

/-- MATMUL over operands that no policy manages: it is whole, stores C and nothing else. With BF16 operands, accumulators that start at
+0 and one work unit, element (r, c) is the sum of the products over K in ascending order, each product exact and each sum rounded once
to FP32 (R113, R114, R312). -/
def Obligations.MatmulAccumulatesProducts : Prop :=
  ∀ (k : OpKey) (s : State) (o : Op) (ra rb rc : Ref) (ta tb tc : Tensor),
    s.opIs k Cls.TENSOR 0 .running = some o → o.early = [] → o.work = .none → s.checksPass o = true → o.accInit = 0 →
    o.ref? 1 = some ra → o.ref? 2 = some rb → o.ref? 3 = some rc →
    ra.tensor = some ta → rb.tensor = some tb → rc.tensor = some tc →
    ta.managed = none → tb.managed = none → tc.managed = none →
    Reached s ra.loc ta.extent false → Reached s rb.loc tb.extent false → Reached s rc.loc tc.extent true → Untraced s →
    (ta.fmt ≠ 1 → ta.fmt ≠ 3 → tb.fmt ≠ 1 → tb.fmt ≠ 3 → tc.fmt = 9 ∨ tc.fmt = 10 →
      ∃ t bs, exec (.matmul k []) s = .next t ∧ t.opHas k .executed ∧ bs.length = tc.extent ∧ StoredAt s t rc.loc bs) ∧
    (ta.fmt = 9 → tb.fmt = 9 → tc.fmt = 10 → o.num 7 % 32 = 0 → ta.elements = o.num 5 * o.num 7 →
      tb.elements = o.num 6 * o.num 7 → tc.elements = o.num 5 * o.num 6 → s.workPlan o = none →
      ∃ t, exec (.matmul k []) s = .next t ∧ t.opHas k .executed ∧
        StoredAt s t rc.loc ((List.range (o.num 5 * o.num 6)).flatMap fun e =>
          leBytes 4 (f32Of (f32Val ((List.range (o.num 7)).foldl (fun acc i =>
            let p := (bf16At s ra.loc (e / o.num 6 * o.num 7 + i)).mul (bf16At s rb.loc (e % o.num 6 * o.num 7 + i))
            if p.isZero then acc else f32Acc acc p) 0)))))

/-- CONVERT from an operand that no policy manages: into a plain format it stores DST and nothing else, from BF16 to FP32 each element's
exact value; into a policy-managed operand whose decision array has no valid slot, under a Q4 default, it writes within region and tags
alone (R96, R137, R154, R156, R312). -/
def Obligations.ConvertEncodes : Prop :=
  ∀ (k : OpKey) (s : State) (o : Op) (src dst : Ref) (ts td : Tensor),
    s.opIs k Cls.CONVERT 0 .running = some o → o.early = [] → o.ref? 1 = some src → o.ref? 2 = some dst →
    src.tensor = some ts → dst.tensor = some td → ts.managed = none → ts.fmt ≠ 1 → ts.fmt ≠ 3 →
    Reached s src.loc ts.extent false → Reached s dst.loc td.extent true → Untraced s →
    (td.managed = none → td.fmt = 0 ∨ (4 ≤ td.fmt ∧ td.fmt ≤ 10) →
      ∃ t bs, exec (.convert k []) s = .next t ∧ t.opHas k .executed ∧ bs.length = td.extent ∧ StoredAt s t dst.loc bs ∧
        (ts.fmt = 9 → td.fmt = 10 → ts.elements = td.elements →
          bs = (List.range td.elements).flatMap fun i => leBytes 4 (f32Of (bf16At s src.loc i)))) ∧
    ∀ m, td.managed = some m → Reached s m.dec.loc 64 false → Reached s m.tags.loc (32 * td.patches) true →
      leAt (s.read m.dec.loc 64) 0 4 = td.patches → bitOf (leAt (s.read m.dec.loc 64) 4 1) 7 = false → td.dflt < 4 →
      td.stats = false →
      ∃ t, exec (.convert k []) s = .next t ∧ t.opHas k .executed ∧
        OutsideSame s t [(dst.loc, td.extent), (m.tags.loc, 32 * td.patches)]

/-- The tensor operands of a VECTOR. -/
def vectorRefs (o : Op) : List Ref := Op.refs { o with opnds := o.opnds.drop 2 }

/-- VECTOR over plain operands: it is whole, writes the operands with WRITE and nothing else (what its program computes is a free value of what
the rule lets it depend on, log entry 3); a position beyond 1,048,575 fails its context (R312, R389). -/
def Obligations.VectorWritesItsOperands : Prop :=
  ∀ (k : OpKey) (maxPos : Nat) (s : State) (o : Op), s.opIs k Cls.TENSOR 2 .running = some o → o.early = [] → s.checksPass o = true →
    (1048575 < maxPos → ∃ t, exec (.vector k maxPos []) s = .next t ∧ Failed s t k.ctx) ∧
    (maxPos ≤ 1048575 → Reached s (o.locOf 1) 1 false →
      (∀ r ∈ vectorRefs o,
        ∃ t, r.tensor = some t ∧ t.managed = none ∧ (t.fmt = 9 ∨ t.fmt = 10) ∧ Reached s r.loc t.extent r.write) →
      ∃ t, exec (.vector k maxPos []) s = .next t ∧ t.opHas k .executed ∧ t.regs = s.regs ∧
        OutsideSame s t (((vectorRefs o).filter fun r => r.write).map fun r =>
          (r.loc, (r.tensor.map Tensor.extent).getD 0)))

/-- The bucket that a DISPATCH routes entry `i` to: the leaf its key finds in the bank that serves it, if it is one of the
buckets. -/
def bucketOf (s : State) (o : Op) (i : Nat) : Option Nat :=
  let f := (s.tile (posTile o.tiles (i / max 1 (ceilDiv (o.num 2) o.tiles.length)))).search
    (bitsOf (s.readNat ((o.locOf 1).plus (8 * i)) 8) 24 16)
  if f.hit && decide (f.leaf < o.num 3) then some f.leaf else none

/-- The entries that a DISPATCH finds in bucket `b`, in index order. -/
def bucketEntries (s : State) (o : Op) (b : Nat) : List Nat := (List.range (o.num 2)).filter fun i => bucketOf s o i = some b

/-- DISPATCH: each bucket's list holds its first CAPACITY entries in index order and its count says how many; the op's
result counts the entries without a bucket and those beyond CAPACITY, together or apart as OVERFLOW says; nothing beyond lists, counts
and spill list is written (R84, R86). -/
def Obligations.DispatchRoutesEntries : Prop :=
  ∀ (k : OpKey) (s : State) (o : Op), s.opIs k Cls.TENSOR 1 .running = some o → o.early = [] →
    let n := o.num 2
    let nb := o.num 3
    let cap := o.num 4
    let ranges := [(o.locOf 5, 8 * cap * nb), (o.locOf 6, 4 * nb), (o.locOf 7, 8 * o.num 8)]
    let surplus := sumNat ((List.range nb).map fun b => (bucketEntries s o b).length - cap)
    let missed := ((List.range n).filter fun i => bucketOf s o i = none).length
    Reached s (o.locOf 1) (8 * n) false → (∀ r ∈ ranges, Reached s r.1 r.2 true) → Untraced s →
      ∃ t o', exec (.dispatch k [] []) s = .next t ∧ t.opAt k = some o' ∧ o'.st = .executed ∧
        o'.result = (if o.num 9 = 1 then [missed + surplus, 0] else [missed, surplus]) ∧ OutsideSame s t ranges ∧
        ((ranges.Pairwise fun p q => p.1.host ≠ q.1.host ∨ p.1.addr + p.2 ≤ q.1.addr ∨ q.1.addr + q.2 ≤ p.1.addr) →
          t.read (o.locOf 6) (4 * nb) =
            (List.range nb).flatMap (fun b => leBytes 4 (min cap (bucketEntries s o b).length)) ∧
          ∀ b j, b < nb → j < cap → ∀ i, (bucketEntries s o b)[j]? = some i →
            t.readNat ((o.locOf 5).plus (8 * cap * b + 8 * j)) 8 = s.readNat ((o.locOf 1).plus (8 * i)) 8)

/-- A steal request of an idle tile moves whole units to the thief and counts them on its tile (how many a tile has not started is a free
value, log entry 61), or ends its stealing for the op; a stolen unit's result arrives once at its owner (R73, R74, R75). A residue check that passes ends a replay; a mismatch replays
up to four times, each counted, and then sounds the whistle (R121). -/
def Obligations.StealingAndReplay : Prop :=
  (∀ (k : OpKey) (pos : Nat) (s : State) (o : Op), s.op? k = some o → o.st = .running → o.stealable = true →
    pos < o.tiles.length → o.tiles.any s.heldTile = false →
    ((s.opUnits o).any fun u => u.thief = some pos && u.arrived.isNone) = false →
    ∃ t o' g, exec (.stealRequest k pos) s = .next t ∧ t.opAt k = some o' ∧ o'.st = .running ∧
      (t.opUnits o').map UnitSt.u = (s.opUnits o).map UnitSt.u ∧
      ((t.opUnits o').filter fun u => u.thief.isNone).length + g = ((s.opUnits o).filter fun u => u.thief.isNone).length ∧
      (g = 0 → t.tiles = s.tiles ∧ pos ∈ o'.stealers.2) ∧
      (0 < g → (t.tile (posTile o.tiles pos)).rd TReg.TILE_STEAL.UNITS_IN =
        TReg.TILE_STEAL.UNITS_IN.counted ((s.tile (posTile o.tiles pos)).rd TReg.TILE_STEAL.UNITS_IN) g)) ∧
  (∀ (k : OpKey) (i after : Nat) (s : State) (o : Op) (us : List UnitSt) (idle ended : List Nat) (u : UnitSt),
    s.op? k = some o → o.st = .running → o.tiles.any s.heldTile = false → o.work = .units us idle ended → us[i]? = some u → u.thief.isSome = true → u.arrived = none →
    (∀ x ∈ us, x.u.owner = u.u.owner → ∀ a, x.arrived = some a → a.1 ≤ after) → after ≤ (ownUnits us u.u.owner).length →
    ∃ t o', exec (.stolenUnitResult k i after) s = .next t ∧ t.opAt k = some o' ∧
      o'.work = .units (us.set i { u with arrived := some (after, (us.filter fun x => x.arrived.isSome).length) }) idle ended ∧
      t.tiles = s.tiles) ∧
  ∀ (x : Nat) (chk : PairCheck) (k : OpKey) (s : State) (o : Op), (s.tile x).running = some k → s.opIs k Cls.TENSOR 0 .running = some o →
    s.islSt (s.tileIsland x) = Isl.RUN →
    (chk.mismatch = false → (s.tile x).replay ≠ .halted → ∃ t, exec (.residueReplay x chk) s = .next t ∧ (t.tile x).replay = .check ∧ t.regs = s.regs) ∧
    (chk.mismatch = true → (s.tile x).replay ≠ .halted → (s.tile x).replay ≠ .rp4 →
      ∃ t, exec (.residueReplay x chk) s = .next t ∧ (t.tile x).replay = (s.tile x).replay.next ∧
        (t.tile x).rd TReg.TILE_COUNT.RESIDUE_REPLAY =
          TReg.TILE_COUNT.RESIDUE_REPLAY.counted ((s.tile x).rd TReg.TILE_COUNT.RESIDUE_REPLAY) 1 ∧
        t.rd Reg.FLT_CLASS_P.COUNT = min (s.rd Reg.FLT_CLASS_P.COUNT + 1) (2 ^ 64 - 1)) ∧
    (chk.mismatch = true → (s.tile x).replay = .rp4 → s.muted = false → s.stage = Stage.READY →
      ∃ t, exec (.residueReplay x chk) s = .next t ∧ (t.tile x).replay = .halted ∧ t.stopped = true ∧ t.pins.whistle = true ∧
        t.rd Reg.FLT_STATUS.D_TYPE = Ev.RESIDUE_FAIL)

/-! ## Numerics policy -/

/-- A statistics record takes a place of its tile's record buffer while one of the four is free (R139, R143). A policy tile scores the oldest
record, where no tile that it needs is held, and writes its entry into the pending slot of the decision array, FRESH set, and nothing else
but LIMIT (R146, R155, R159, R177; which replica
is a free value, log entry 69). A staged sample's shadow entry joins the calibration log and its slot is free (R169, R171). -/
def Obligations.PolicyRecordsBecomeEntries : Prop :=
  (∀ (x : Nat) (s : State) (r : StatRec) (rest : List StatRec), (s.tile x).emit = r :: rest → s.stopped = false →
    (s.heldTile x = true → exec (.statsRecord x) s = .next s) ∧
    (s.heldTile x = false → 4 ≤ (s.tile x).recs.length → exec (.statsRecord x) s = .next s) ∧
    (s.heldTile x = false → (s.tile x).recs.length < 4 →
      ∃ t, exec (.statsRecord x) s = .next t ∧ (t.tile x).recs = (s.tile x).recs ++ [r] ∧ (t.tile x).emit = rest ∧
        ∀ y, y ≠ x → t.tile y = s.tile y)) ∧
  (∀ (die x : Nat) (flips : List SlotFlip) (s : State) (r : StatRec) (rest : List StatRec), (s.tile x).recs = r :: rest →
    s.stopped = false → tileDie x = die → s.policyGroups die ≠ [] → s.heldTile x = false →
    (∀ c ∈ s.policyGroups die, ∃ i p, mapGet? s.configs c = some i ∧ i.score = some p ∧
      (s.cfgTiles c i.segs.length).any s.heldTile = false) →
    (s.tile x).samples = [] → r.patch < r.patches → nth r.feats 0 8 ≤ 6 → Untraced s →
    Reached s ⟨false, r.dec⟩ (64 + 16 * r.patches) true →
    let hdr : Loc := ⟨false, r.dec⟩
    let place := decEntryLoc hdr r.patches (1 - s.readNat (hdr.plus 4) 1 % 2) r.patch
    ∃ t, exec (.policyRecordScore die x flips []) s = .next t ∧ (t.tile x).recs = rest ∧ bitOf (t.readNat place 8) 40 = true ∧
      bitsOf (t.readNat place 8) 32 4 ≤ 6 ∧ OutsideSame s t [(place, 8), (hdr.plus 0x14, 4)] ∧
      t.rd Reg.POLICY_COUNT0.RECORDS = Reg.POLICY_COUNT0.RECORDS.counted (s.rd Reg.POLICY_COUNT0.RECORDS) 1) ∧
  (∀ (x j : Nat) (s : State) (m : Sample) (sc : Scored), (s.tile x).samples.find? (fun y => y.slot = some j) = some m →
    m.scored = some sc → s.stopped = false → s.heldTile x = false → s.poisonIn (s.stageLoc x j).addr (2 * m.elements) = none →
    (∀ y ∈ (s.tile x).samples, y.wait = none) →
    let head := s.rd Reg.CAL_LOG_HEAD.HEAD
    let size := 2 ^ s.rd Reg.CAL_LOG_SIZE.LOG2
    let a := s.rd Reg.CAL_LOG_BASE.ADDR + 128 * (head % size)
    (head + 2 ^ 32 - s.rd Reg.CAL_LOG_TAIL.TAIL) % 2 ^ 32 < size → Reached s ⟨false, a⟩ 128 true →
    ∃ t, exec (.shadowEntryDone x j []) s = .next t ∧ t.rd Reg.CAL_LOG_HEAD.HEAD = (head + 1) % 2 ^ 32 ∧
      StoredAt s t ⟨false, a⟩ (m.entry x sc (some (s.shadowErrs x m j))) ∧ ∀ y ∈ (t.tile x).samples, y.slot ≠ some j) ∧
  PendingGenerationShowsAFlip

/-! ## Stream engine -/

/-- A COPY is cut into transfers of at most 4,096 bytes that cross no 4 KiB boundary at either end and cover it (R337); its op issues
them in bursts of at most 16 within its context's OUTSTANDING (R338), under a role once it has waited for a place of its pair (R343); each that lands
stores its bytes at its place and nowhere else, after every earlier one of the op that writes to the same line, and the last makes the
MOVE whole (R278, R342). A stack that stops answering sounds the whistle (R274). -/
def CopiesRunInTransfers : Prop :=
  ∀ (k : OpKey) (s : State) (o : Op),
    (∀ x ∈ o.xfers, 1 ≤ x.len ∧ x.len ≤ 4096 ∧ x.src.addr % 4096 + x.len ≤ 4096 ∧ x.dst.addr % 4096 + x.len ≤ 4096) ∧
    (o.num 5 = 0 → sumNat (o.xfers.map Xfer.len) = o.num 3) ∧
    (s.opIs k Cls.STREAM 0 .running = some o → o.work = .none → o.num 0 = 0 →
      (o.xfers = [] → ∃ t, exec (.moveCopy k) s = .next t ∧ t.opHas k .executed) ∧
      (o.xfers ≠ [] →
        ∃ t o', exec (.moveCopy k) s = .next t ∧ t.opAt k = some o' ∧
          o'.work = .move ⟨o.xfers, [], 0, if o.num 5 = 0 then 1 else 0, o.chunks⟩ ∧ t.hbm = s.hbm ∧ t.hostMem = s.hostMem ∧
          ∀ p, o.num 5 ≠ 0 → s.pair? k.ctx k.seq (o.num 6) = some p →
            t.pair? k.ctx k.seq (o.num 6) = some (p.join ⟨k, o.takesSem, 1, s.now⟩))) ∧
    ∀ w : MoveWork, s.moveWork k = some (o, w) →
      let burst := (w.todo.takeWhile fun x => decide (x.chunk < w.taken)).take (min 16 ((s.ctx k.ctx).outstanding - w.out.length))
      (burst ≠ [] → (∀ x ∈ burst, Reached s x.src x.len false ∧ Reached s x.dst x.len true) →
        ∃ t o' w', exec (.burstIssue k [] none) s = .next t ∧ t.opAt k = some o' ∧ o'.work = .move w' ∧
          w'.todo = w.todo.drop burst.length ∧ w'.out.map Prod.snd = w.out.map Prod.snd ++ burst ∧
          t.hbm = s.hbm ∧ t.hostMem = s.hostMem ∧
          t.rd Reg.SE_COUNT0.BURSTS = Reg.SE_COUNT0.BURSTS.counted (s.rd Reg.SE_COUNT0.BURSTS) 1) ∧
      (∀ st, burst ≠ [] → s.stackList.contains st = true → s.muted = false → s.stage = Stage.READY →
        ∃ t, exec (.burstIssue k [] (some st)) s = .next t ∧ t.stopped = true ∧ t.pins.whistle = true ∧
          t.rd Reg.FLT_STATUS.D_TYPE = Ev.STACK_FAIL) ∧
      ∀ (idx i : Nat) (x : Xfer), w.out.find? (fun e => e.1 = idx) = some (i, x) →
        (s.tooHot x.src x.len = true ∨ s.tooHot x.dst x.len = true → ∀ h, exec (.transferLanded k idx h []) s = .next s) ∧
        (behindLine w.out idx x = true → exec (.transferLanded k idx false []) s = .next s) ∧
        (x.src.host = true → s.tooHot x.dst x.len = false →
          ∃ t, exec (.transferLanded k idx true []) s = .next t ∧ Failed s t k.ctx ∧ t.rd Reg.SE_STATUS.NACK_SEEN = 1) ∧
        (o.num 5 ≠ 0 ∨ (∀ l, o.overlap l = false) → s.tooHot x.src x.len = false → s.tooHot x.dst x.len = false →
          behindLine w.out idx x = false → Reached s x.src x.len false → Reached s x.dst x.len true → Untraced s →
          ∃ t, exec (.transferLanded k idx false []) s = .next t ∧ StoredAt s t x.dst (s.read x.src x.len) ∧
            (o.num 5 = 0 → (w.out.filter fun e => e.1 != idx) = [] → w.todo = [] → t.opHas k .executed) ∧
            (o.num 5 = 0 → (w.out.filter fun e => e.1 != idx) ≠ [] ∨ w.todo ≠ [] →
              ∃ o' w', t.opAt k = some o' ∧ o'.work = .move w' ∧ w'.out = w.out.filter fun e => e.1 != idx))

/-- The fetch of an op: a burst that reaches what it reads is issued and counted; a transfer that lands is outstanding no longer and
counted, and stores nothing. -/
def FetchesRunInBursts : Prop :=
  ∀ (k : OpKey) (s : State) (o : Op) (f : Flow), s.moveWork k = none → s.fetching k = some (o, f) →
    let burst := f.todo.take (min 16 ((s.ctx k.ctx).outstanding - f.out.length))
    (burst ≠ [] → (∀ x ∈ burst, Reached s x.src x.len false) →
      ∃ t o', exec (.burstIssue k [] none) s = .next t ∧ t.opAt k = some o' ∧ o'.fetch.todo = f.todo.drop burst.length ∧
        o'.fetch.out.map Prod.snd = f.out.map Prod.snd ++ burst ∧ o'.st = o.st ∧ t.hbm = s.hbm ∧ t.hostMem = s.hostMem ∧
        t.rd Reg.SE_COUNT0.BURSTS = Reg.SE_COUNT0.BURSTS.counted (s.rd Reg.SE_COUNT0.BURSTS) 1) ∧
    ∀ (idx i : Nat) (x : Xfer), f.out.find? (fun e => e.1 = idx) = some (i, x) → s.tooHot x.src x.len = false →
      Reached s x.src x.len false →
      ∃ t o', exec (.transferLanded k idx false []) s = .next t ∧ t.opAt k = some o' ∧
        o'.fetch.out = (f.out.filter fun e => e.1 != idx) ∧ o'.st = o.st ∧ t.hbm = s.hbm ∧ t.hostMem = s.hostMem ∧
        t.rd Reg.SE_COUNT0.TRANSFERS = Reg.SE_COUNT0.TRANSFERS.counted (s.rd Reg.SE_COUNT0.TRANSFERS) 1

/-- The stream engine's transfers: those of a COPY, and those of the fetch of an op (R337 to R343). -/
def Obligations.MovesCopyInTransfers : Prop := CopiesRunInTransfers ∧ FetchesRunInBursts

/-- A curation op starts at its flag ring's TAIL; a flag entry that keeps nothing passes, one that keeps a record packs it into DST with
its weight in WEIGHTS and writes nothing else; the last entry makes the op whole (R348, R349). RELAY writes SRC's bytes, as its fetch saw them, into every
tile of its chain and into no other (R351). -/
def Obligations.CurationAndRelay : Prop :=
  ∀ (k : OpKey) (s : State) (o : Op),
    (s.opIs k Cls.STREAM 0 .running = some o → o.work = .none → Reached s (o.locOf 8) 64 false →
      let j := s.readNat ((o.locOf 8).plus 8) 8
      (o.num 0 = 1 → ∃ t o', exec (.curateScore k []) s = .next t ∧ t.opAt k = some o' ∧
        o'.work = .curate ⟨j, 0, 0, 0, none, 0, false⟩ ∧ o'.st = .running) ∧
      (o.num 0 = 2 → ∃ t o', exec (.curatePattern k []) s = .next t ∧ t.opAt k = some o' ∧
        o'.work = .curate ⟨j, 0, 0, 0, none, 0, false⟩ ∧ o'.st = .running)) ∧
    (∀ w : CurWork, s.opIs k Cls.STREAM 0 .running = some o → o.work = .curate w →
      let flags := o.locOf 8
      let entry := flags.plus (64 + 8 * ((w.j0 + w.i) % o.num 13))
      let f := s.readNat entry 8
      let keep := if o.num 0 = 1 then bitOf f 16 else bitOf f 0
      let stride := 64 * (o.num 10 + 1)
      let rec_ := (o.locOf 1).plus (64 + stride * (bitsOf f 32 32 % o.num 11))
      let len := if o.num 0 = 1 then stride else ceilDiv (8 + s.readNat rec_ 4) 64 * 64
      Reached s flags 64 false → Reached s entry 8 false → w.j0 + w.i < s.readNat flags 8 →
      (keep = false → w.i + 1 ≠ o.num 12 →
        ∃ t o' w', exec (.curateEntry k []) s = .next t ∧ t.opAt k = some o' ∧ o'.work = .curate w' ∧ w'.i = w.i + 1 ∧
          w'.n = w.n ∧ w'.off = w.off ∧ t.hbm = s.hbm ∧ t.hostMem = s.hostMem) ∧
      (keep = false → w.i + 1 = o.num 12 → Reached s flags 64 true → Reached s (o.locOf 9) 64 true →
        Reached s (o.locOf 1) 64 true →
        ∃ t, exec (.curateEntry k []) s = .next t ∧ t.opHas k .executed ∧
          OutsideSame s t [(o.locOf 9, 64), (flags.plus 8, 8), ((o.locOf 1).plus 8, if o.num 0 = 2 then 8 else 0)]) ∧
      (keep = true → Reached s rec_ 8 false → Reached s rec_ len false → w.off + len ≤ o.num 3 → w.i + 1 ≠ o.num 12 →
        let dst := (o.locOf 2).plus w.off
        let wt := (o.locOf 9).plus (64 + 2 * w.n)
        Reached s dst len true → Reached s wt 2 true →
        ∃ t o' w', exec (.curateEntry k []) s = .next t ∧ t.opAt k = some o' ∧ o'.work = .curate w' ∧ w'.i = w.i + 1 ∧
          w'.n = w.n + 1 ∧ w'.off = w.off + len ∧ OutsideSame s t [(dst, len), (wt, 2)] ∧
          t.readNat wt 2 = (if o.num 0 = 1 then f % 2 ^ 16 else 0x3F80) ∧
          (dst.host ≠ wt.host ∨ dst.addr + len ≤ wt.addr ∨ wt.addr + 2 ≤ dst.addr → t.read dst len = s.read rec_ len))) ∧
    (s.opIs k Cls.STREAM 1 .running = some o → Reached s (o.locOf 1) (o.num 2) false →
      ∃ t, exec (.relay k []) s = .next t ∧ t.opHas k .executed ∧ t.hbm = s.hbm ∧ t.hostMem = s.hostMem ∧
        (∀ x ∈ o.tiles, Memory.stored (s.tile x).sram (t.tile x).sram (o.num 3) ((s.fetched o).read (o.locOf 1) (o.num 2))) ∧
        ∀ x, x ∉ o.tiles → t.tile x = s.tile x)

/-- SEM_SIGNAL adds its count and completes, or fails with SEM_OVERFLOW beyond DEPTH; SEM_WAIT joins the takers, who are served whole
counts in wait order, and where they began to wait together by OP_ID (R345, R346). Participants of a huddle wait for one another and complete together (R352, R353). -/
def Obligations.SemaphoresAndHuddles : Prop :=
  ∀ (k : OpKey) (s : State) (o : Op),
    (∀ p : Pair, s.opIs k Cls.STREAM 2 .running = some o → s.pair? k.ctx k.seq (o.num 0) = some p →
      (p.val (o.num 2) + o.num 3 ≤ p.depth →
        ∃ t, exec (.semSignal k) s = .next t ∧ t.opOver k ∧
          ∀ q, t.pair? k.ctx k.seq (o.num 0) = some q → q.val (o.num 2) = p.val (o.num 2) + o.num 3) ∧
      (p.depth < p.val (o.num 2) + o.num 3 →
        ∃ t, exec (.semSignal k) s = .next t ∧ Failed s t k.ctx ∧ t.rd Reg.SE_STATUS.SEM_OVF_SEEN = 1)) ∧
    (∀ p : Pair, s.opIs k Cls.STREAM 3 .running = some o → o.work = .none → s.pair? k.ctx k.seq (o.num 0) = some p →
      ∃ t, exec (.semWait k) s = .next t ∧
        t.pair? k.ctx k.seq (o.num 0) = some (p.join ⟨k, o.num 2, o.num 3, s.now⟩) ∧ t.opHas k .running) ∧
    (∀ (c q pair sem : Nat) (p : Pair) (w : Waiter), s.pair? c q pair = some p → s.stopped = false →
      p.waiters.find? (fun w => w.sem = sem) = some w →
      (p.val sem < w.count → exec (.semaphoreTake c q pair sem) s = .next s) ∧
      (w.count ≤ p.val sem → ∀ o', s.op? w.key = some o' →
        (∀ m, o'.work = .move m →
          ∃ t o'', exec (.semaphoreTake c q pair sem) s = .next t ∧ t.opAt w.key = some o'' ∧
            o''.work = .move { m with taken := m.taken + 1 } ∧
            t.pair? c q pair = some { p.put sem (p.val sem - w.count) with waiters := p.waiters.erase w }) ∧
        ((∀ m, o'.work ≠ .move m) →
          ∃ t, exec (.semaphoreTake c q pair sem) s = .next t ∧ t.opOver w.key ∧
            ∀ p', t.pair? c q pair = some p' → p'.val sem = p.val sem - w.count))) ∧
    (s.opIs k Cls.SYNC 4 .running = some o →
      (∃ t o', exec (.huddle k) s = .next t ∧ t.opAt k = some o' ∧ o'.work = .pending 1 ∧ o'.st = .running) ∧
      ∀ (b : Buf) (held mhz : Nat), s.buf? k.ctx k.seq = some b →
        (∀ p ∈ b.huddle o, p.st = .running ∧ p.work = .pending 1 ∧ ∀ x ∈ p.tiles, s.heldTile x = false) →
        ∃ t, exec (.huddleRelease k held mhz) s = .next t ∧ ∀ p ∈ b.huddle o, t.opOver { k with id := p.id })

/-! ## Configuration and the match arrays -/

/-- TILE_CONFIG and LOAD_POLICY check their image, set the duty and begin its load on every tile of the group, or fail the op; a tile
whose load ends well is READY in its new duty, one whose self-test fails returns to IDLE, and after the last the op is whole (R59,
R60, R61, R166, R206). -/
def Obligations.ConfigurationLoads : Prop :=
  ∀ (k : OpKey) (img : Image) (s : State) (o : Op),
    (s.opIs k Cls.SYNC 1 .running = some o → o.work = .none → Reached s (o.locOf 2) 1 false →
      (o.num 1 = 0 ∨ s.imageOk (o.num 1) img o.tiles.length o.tiles = true →
        ∃ t o', exec (.tileConfig k img []) s = .next t ∧ t.opAt k = some o' ∧ o'.work = .load o.tiles ∧
          mapGet? t.configs s.nextCfg = some img ∧
          (∀ x ∈ o.tiles, (t.tile x).duty = o.num 1 ∧ (t.tile x).loading = some (s.nextCfg, o.num 1, k)) ∧
          ∀ x, x ∉ o.tiles → t.tile x = s.tile x) ∧
      (o.num 1 ≠ 0 → s.imageOk (o.num 1) img o.tiles.length o.tiles = false →
        ∃ t, exec (.tileConfig k img []) s = .next t ∧ Failed s t k.ctx ∧ ∀ x ∈ o.tiles, (t.tile x).st = .idle)) ∧
    (s.opIs k Cls.SYNC 2 .running = some o → o.work = .none → Reached s (o.locOf 1) 1 false →
      (img.kind = 0 → s.policyOk img o.tiles.length = true →
        ∃ t o', exec (.loadPolicy k img []) s = .next t ∧ t.opAt k = some o' ∧ o'.work = .load o.tiles ∧
          ∀ x ∈ o.tiles, (t.tile x).duty = 2 ∧ (t.tile x).st = .config ∧ (t.tile x).loading = some (s.nextCfg, 2, k)) ∧
      (img.kind ≠ 0 → s.policyOk img o.tiles.length = true → img.gen ≠ s.rd Reg.POLICY_CTRL.ACTIVE_GEN →
        (∀ x ∈ o.tiles, (s.tile x).duty = 2 ∧ (s.tile x).cfg.isSome = true) →
        ∃ t o', exec (.loadPolicy k img []) s = .next t ∧ t.opAt k = some o' ∧ o'.work = .load o.tiles ∧
          ∀ x ∈ o.tiles, (t.tile x).st = .busy ∧ (t.tile x).loading = some (s.nextCfg, 2, k)) ∧
      (img.kind ≠ 0 → img.gen = s.rd Reg.POLICY_CTRL.ACTIVE_GEN →
        ∃ t, exec (.loadPolicy k img []) s = .next t ∧ Failed s t k.ctx)) ∧
    ∀ (x c duty : Nat) (left : List Nat), (s.tile x).loading = some (c, duty, k) → s.op? k = some o → o.work = .load left →
      mapGet? s.configs c = some img → duty ≠ 0 → ¬(o.code = 2 ∧ img.kind = 1) → (s.tile x).deck = none → s.heldTile x = false →
      (∃ t, exec (.imageLoadDone x true []) s = .next t ∧ (t.tile x).st = .ready ∧ (t.tile x).duty = duty ∧
        (t.tile x).cfg = some c ∧ (t.tile x).loading = none ∧
        (left.filter (· != x) = [] → t.opHas k .executed) ∧
        (left.filter (· != x) ≠ [] → ∃ o', t.opAt k = some o' ∧ o'.work = .load (left.filter (· != x)))) ∧
      ∃ t, exec (.imageLoadDone x false []) s = .next t ∧ (t.tile x).st = .idle ∧ Failed s t k.ctx

/-- An item that a tile's edit port applies next, for the op that asked for it. -/
abbrev ItemAt (s : State) (x : Nat) (it : EditItem) (rest : List EditItem) (code : Nat) : Prop :=
  s.stopped = false ∧ s.heldTile x = false ∧ (s.tile x).edits = it :: rest ∧ it.op = code ∧ it.gate = none ∧ (∀ e ∈ rest, e.op ≠ 0) ∧
  ∀ o left rec_ bad, s.op? it.key = some o → o.work = .edit left rec_ bad → bad = none

/-- What follows an item on its tile: the port goes on, EDITS counts, other tiles stay. -/
def ItemDone (s t : State) (x : Nat) (rest : List EditItem) : Prop :=
  (t.tile x).edits = rest ∧
  (t.tile x).rd TReg.TMA_COUNT1.EDITS = TReg.TMA_COUNT1.EDITS.counted ((s.tile x).rd TReg.TMA_COUNT1.EDITS) 1 ∧
  ∀ y, y ≠ x → t.tile y = s.tile y

/-- The edit items on a bank: INVAL clears VALID; WRITE stores KEY and MASK of a slot whose entry is not valid, and is dropped on one that
is; VALID sets VALID and LEN; PF and PF_SEL write the pre-filter; FLIP sets the active generation; AUX_WRITE stores 8 bytes in the copy not
in use and tags it; each leaves the other slots (R191, R196, R198, R200, R255). -/
def EditItemsApply : Prop :=
  ∀ (x : Nat) (s : State) (it : EditItem) (rest : List EditItem),
    (ItemAt s x it rest 1 →
      ∃ t, exec (.inval x .none) s = .next t ∧ ItemDone s t x rest ∧ ((t.tile x).slot it.slot).valid = false ∧
        ((t.tile x).slot it.slot).len = 0 ∧ ((t.tile x).slot it.slot).key = ((s.tile x).slot it.slot).key ∧
        ∀ a, a ≠ it.slot → (t.tile x).slot a = (s.tile x).slot a) ∧
    (ItemAt s x it rest 2 →
      (((s.tile x).slot ((s.tile x).firstOf it.slot)).valid = false →
        ∃ t, exec (.write x .none) s = .next t ∧ ItemDone s t x rest ∧ ((t.tile x).slot it.slot).key = it.keyBits ∧
          ((t.tile x).slot it.slot).mask = it.maskBits ∧
          ((s.tile x).isFirst it.slot = true → ((t.tile x).slot it.slot).leaf = bitsOf it.w1 0 16 ∧
            ((t.tile x).slot it.slot).gen = bitsOf it.w1 16 2) ∧
          ∀ a, a ≠ it.slot → (t.tile x).slot a = (s.tile x).slot a) ∧
      (((s.tile x).slot ((s.tile x).firstOf it.slot)).valid = true →
        ∃ t, exec (.write x .none) s = .next t ∧ ItemDone s t x rest ∧ (t.tile x).rd TReg.TMA_STATUS.EDIT_DROP = 1 ∧
          (t.tile x).tma = (s.tile x).tma)) ∧
    (ItemAt s x it rest 3 →
      ∃ t, exec (.valid x .none) s = .next t ∧ ItemDone s t x rest ∧ ((t.tile x).slot it.slot).valid = true ∧
        (((s.tile x).slot it.slot).valid = false → ((t.tile x).slot it.slot).len = (s.tile x).entryLen it.slot) ∧
        ∀ a, a ≠ it.slot → (t.tile x).slot a = (s.tile x).slot a) ∧
    (ItemAt s x it rest 4 → it.slot < 16 →
      ∃ t, exec (.pf x) s = .next t ∧ ItemDone s t x rest ∧ (t.tile x).rd (TReg.TMA_PF.VALUE it.slot) = bitsOf it.w1 0 8 ∧
        (t.tile x).rd (TReg.TMA_PF.MASK it.slot) = bitsOf it.w1 8 8 ∧
        (t.tile x).rd (TReg.TMA_PF.OFF it.slot) = bitsOf it.w1 16 1 ∧ (t.tile x).tma = (s.tile x).tma) ∧
    (ItemAt s x it rest 5 →
      ∃ t, exec (.pfSel x) s = .next t ∧ ItemDone s t x rest ∧ (t.tile x).tma = (s.tile x).tma ∧
        ∀ f ∈ (if it.slot = 0 then [TReg.TMA_PF_SEL0.SEL0, TReg.TMA_PF_SEL0.SEL1, TReg.TMA_PF_SEL0.SEL2, TReg.TMA_PF_SEL0.SEL3]
          else [TReg.TMA_PF_SEL1.SEL4, TReg.TMA_PF_SEL1.SEL5, TReg.TMA_PF_SEL1.SEL6, TReg.TMA_PF_SEL1.SEL7]),
          (t.tile x).rd f = if bitsOf it.w1 f.lo 9 < 128 * (s.tile x).span then bitsOf it.w1 f.lo 9 else (s.tile x).rd f) ∧
    (ItemAt s x it rest 6 →
      ∃ t, exec (.flip x) s = .next t ∧ ItemDone s t x rest ∧ (t.tile x).rd TReg.TMA_GEN.ACTIVE = bitsOf it.w1 0 2 ∧
        (t.tile x).rd TReg.TMA_GEN.FLIPS = TReg.TMA_GEN.FLIPS.counted ((s.tile x).rd TReg.TMA_GEN.FLIPS) 1 ∧
        (t.tile x).tma = (s.tile x).tma) ∧
    (ItemAt s x it rest 7 →
      ∃ t, exec (.auxWrite x) s = .next t ∧ ItemDone s t x rest ∧
        Memory.stored (s.tile x).sram (t.tile x).sram
          (s.copyBase (s.tile x) (1 - (s.tile x).inUse) + bitsOf it.keyBits 0 16) (leBytes 8 it.w1) ∧
        (t.tile x).copyGen (1 - (s.tile x).inUse) = some (bitsOf it.keyBits 16 2) ∧ (t.tile x).tma = (s.tile x).tma)

/-- TMA_EDIT queues its items on the banks they name, in list order, and runs until they are applied; in band every item waits for the
record at which the list enters, a FLIP for a later one for that (R195, R200); a FLIP that a pattern bank must refuse fails the op
(R195, R196, R197). -/
def TmaEditQueuesItems : Prop :=
  ∀ (k : OpKey) (s : State) (o : Op) (r : Ref), s.opIs k Cls.SYNC 3 .running = some o → o.work = .none → o.ref? 1 = some r →
    Reached s r.loc (64 * o.num 2) false →
    let tiles := o.tiles
    let its := (List.range (o.num 2)).map (editAt (s.read r.loc (64 * o.num 2)))
    let onTile := fun j => its.filter fun it => it.2.2.1 = 0xFFFF || it.2.2.1 = j
    (o.num 3 = 0 → tiles.Nodup → (∀ i, i < o.num 2 → s.flipRefused tiles its i = false) → (∀ it ∈ its, s.itemBad tiles it = false) →
      (∀ it ∈ its, it.1 ≠ 0) → (∀ x ∈ tiles, (s.tile x).edits = []) → its ≠ [] →
      ∃ t o', exec (.tmaEdit k []) s = .next t ∧ t.opAt k = some o' ∧
        o'.work = .edit (sumNat ((List.range tiles.length).map fun j => (onTile j).length)) none none ∧ o'.st = .running ∧
        ∀ j x, tiles[j]? = some x →
          (t.tile x).edits.map (fun e => (e.op, e.slot, e.w1, e.keyBits, e.maskBits)) =
            (onTile j).map fun it => (it.1, it.2.1, it.2.2.2.1, it.2.2.2.2.1, it.2.2.2.2.2)) ∧
    (∀ p, o.num 3 = 1 → s.streamOn k.ctx tiles = some p → (∀ i, i < o.num 2 → s.flipRefused tiles its i = false) →
      (∀ it ∈ its, s.itemBad tiles it = false) → (∀ x ∈ tiles, (s.tile x).edits = []) →
      ∃ t, exec (.tmaEdit k []) s = .next t ∧
        ∀ x ∈ tiles, ∀ e ∈ (t.tile x).edits, ∃ g, e.gate = some g ∧ s.nextUnsent p.1 p.2 ≤ g ∧
          (e.op ≠ 6 ∨ bitOf e.w1 63 = true → g = s.nextUnsent p.1 p.2)) ∧
    ((∃ i, i < o.num 2 ∧ s.flipRefused tiles its i = true) →
      ∃ t, exec (.tmaEdit k []) s = .next t ∧ Failed s t k.ctx)

/-- TMA_EDIT queues its items, and each applies on its bank. -/
def Obligations.EditsQueueAndApply : Prop := EditItemsApply ∧ TmaEditQueuesItems

/-- On an island that runs, the TMA scrubber corrects a single-bit error and invalidates an entry with a double-bit one (R205), and the
SRAM scrubber counts what it finds and keeps a word that has failed in mind (R286); the patrol scrubber corrects an error within one
16-bit symbol, and poisons the sector of one in two (R279 to R281, R283); a refresh and the retraining of a port change no state
(R287, R408). -/
def Obligations.ScrubbersFindErrors : Prop :=
  ∀ s : State, s.stopped = false →
    (∀ x slot, slot < 512 → s.tileRuns x = true →
      exec (.tmaScrub x slot .none) s = .next s ∧
      (∃ t, exec (.tmaScrub x slot .ce) s = .next t ∧ (t.tile x).rd TReg.TMA_STATUS.ECC_CORR = 1 ∧ (t.tile x).tma = (s.tile x).tma) ∧
      ∃ t, exec (.tmaScrub x slot .ue) s = .next t ∧ (t.tile x).rd TReg.TMA_STATUS.ECC_UNCORR = 1 ∧
        ((t.tile x).slot ((s.tile x).firstOf slot)).valid = false ∧
        (((s.tile x).slot ((s.tile x).firstOf slot)).valid = true → (s.tile x).st ≠ .idle → Failed s t (s.tile x).ctx)) ∧
    (∀ x word, word < 16384 → s.tileRuns x = true → (s.tile x).badWords.contains word = false →
      exec (.sramScrub x word .none) s = .next s ∧
      (∃ t, exec (.sramScrub x word .ce) s = .next t ∧ t.rd Reg.MEM_STATUS.SRAM_CE_SEEN = 1 ∧
        t.rd Reg.MEM_SRAM_COUNT.CE = Reg.MEM_SRAM_COUNT.CE.counted (s.rd Reg.MEM_SRAM_COUNT.CE) 1 ∧ t.tiles = s.tiles) ∧
      ∃ t, exec (.sramScrub x word .ue) s = .next t ∧ t.rd Reg.MEM_STATUS.SRAM_UE_SEEN = 1 ∧
        t.rd Reg.MEM_SRAM_COUNT.UE = Reg.MEM_SRAM_COUNT.UE.counted (s.rd Reg.MEM_SRAM_COUNT.UE) 1 ∧
        (t.tile x).sram = (s.tile x).sram ∧ word ∈ (t.tile x).ueWords ∧ word ∈ (t.tile x).badWords) ∧
    (∀ a row y z, a < s.hbmTop → s.poison.contains (a / 32 * 32) = false → s.on (Reg.MEM_HBM_TEMP.HOT (s.stackOf (a / 32 * 32))) = false →
      exec (.hbmPatrolScrub ⟨a, [], row, none⟩) s = .next s ∧
      (∃ t, exec (.hbmPatrolScrub ⟨a, [y], row, none⟩) s = .next t ∧ t.rd Reg.MEM_STATUS.CE_SEEN = 1 ∧ t.poison = s.poison ∧
        t.rd (Reg.MEM_STACK_COUNT.CE (s.stackOf (a / 32 * 32))) =
          (Reg.MEM_STACK_COUNT.CE (s.stackOf (a / 32 * 32))).counted (s.rd (Reg.MEM_STACK_COUNT.CE (s.stackOf (a / 32 * 32)))) 1) ∧
      (y ≠ z → ∃ t, exec (.hbmPatrolScrub ⟨a, [y, z], row, none⟩) s = .next t ∧ t.poison = a / 32 * 32 :: s.poison ∧
        t.rd Reg.MEM_STATUS.UE_SEEN = 1 ∧ t.rd Reg.MEM_STATUS.POISON_READ = 1 ∧
        (Untraced s → t.hbm = s.hbm))) ∧
    (∀ stack channel, exec (.hbmRefresh stack channel) s = .next s) ∧ ∀ p, exec (.portRetrain p) s = .next s

/-! ## Scoring, pattern matching and collectives -/

/-- The parts that a replica's ops score a record with: each segment's plan, and the bins its binner gives the record's features. -/
def scoreParts (s : State) (ops : List (OpKey × Op)) (bytes : List Nat) : List (ScorePart × List Nat) :=
  ops.filterMap fun p => (s.planOf p.2.tiles).map fun q =>
    (ScorePart.mk q p.2.tiles, q.feats.map fun f => f.binIn (s.tile (posTile p.2.tiles q.binner)).sram bytes)

/-- The stream of a ring in an op's buffer. -/
def ringStream (s : State) (k : OpKey) (ring : Loc) : Option Stream :=
  s.se.streams.find? fun x => x.ctx = k.ctx && x.seq = k.seq && x.ring = ring

/-- SCORE: an op joins its ring's stream, and the last to join starts it at CONS with each replica at its first record (R232, R234). A
replica scores its next published record with the banks as they stand, bits in error among them, keeps its outputs and goes on by its
stride (R205, R223 to R226, R231). A stalled stream reads its host ring's TAIL anew at a poll, and the first read that sees room ends the
stall (R235, R267, R269). -/
def ScoreStreams : Prop :=
  ∀ (k : OpKey) (s : State) (o : Op),
    (s.opIs k Cls.FILTAS 0 .running = some o → o.work = .none →
      let ring := o.locOf 1
      let keys := ((ringStream s k ring).map Stream.keys).getD [] ++ [k]
      (keys.length ≠ (o.num 6 + 1) * (o.num 8 + 1) →
        ∃ t y, exec (.score k []) s = .next t ∧ ringStream t k ring = some y ∧ y.keys = keys ∧ t.hbm = s.hbm ∧ t.hostMem = s.hostMem) ∧
      (keys.length = (o.num 6 + 1) * (o.num 8 + 1) → Reached s ring 64 false →
        (o.num 10 = 0 → Reached s ((o.locOf 12).plus 8) 8 false) →
        ∃ t y, exec (.score k []) s = .next t ∧ ringStream t k ring = some y ∧ y.keys = keys ∧
          y.s0 = s.readNat (ring.plus 16) 8 % 2 ^ 48 ∧ y.done = (List.range (o.num 6 + 1)).map (o.firstRec y.s0) ∧
          (o.num 10 = 0 → y.tail = s.readNat ((o.locOf 12).plus 8) 8) ∧ t.hbm = s.hbm ∧ t.hostMem = s.hostMem)) ∧
    (∀ (r : Nat) (flips : List SlotFlip) (x : Stream), s.op? k = some o → s.streamOf k = some x → r ≤ o.num 6 → x.started o = true →
      let ops := s.replicaOps x r
      let tiles := ops.flatMap fun p => p.2.tiles
      let n := nth x.done 0 r
      let len := 64 * (o.num 3 + 1)
      let loc := x.ring.plus (64 + len * (n % o.num 2))
      (∀ y ∈ tiles, (s.tile y).edits = [] ∧ s.heldTile y = false) → s.beforeEnd x o n = true →
      Reached s x.ring 64 false → Untraced s →
      (s.readNat x.ring 8 % 2 ^ 48 ≤ n → exec (.scoreRecord k r [] flips []) s = .next s) ∧
      (n < s.readNat x.ring 8 % 2 ^ 48 → Reached s loc len false →
        ∃ t y res, exec (.scoreRecord k r [] flips []) s = .next t ∧ t.streamOf k = some y ∧ y.results = x.results ++ [res] ∧
          res.num = n ∧ res.replica = r ∧
          res.y = (List.range 8).map (fun i => nth (s.evaluate flips (scoreParts s ops (s.read loc len))).2.2 0 i) ∧
          y.done = setAt x.done r (n + o.stride) ∧ y.delivered = x.delivered ∧ t.hbm = s.hbm ∧ t.hostMem = s.hostMem)) ∧
    (∀ w : PatWork, s.patWork k = some (o, w) →
      (w.stall = none → exec (.ringTailPoll k []) s = .next s) ∧
      (w.stall ≠ none → (∀ a ∈ o.tailAccs, Reached s a.loc a.len false) →
        ∃ t o' w', exec (.ringTailPoll k []) s = .next t ∧ t.opAt k = some o' ∧ o'.work = .pattern w' ∧
          { w' with stall := w.stall } = s.sampleTails o w ∧ t.hbm = s.hbm ∧
          ∀ l, (w.lanes.find? fun l => l.st = .flush && l.num = w.flushed) = some l →
            (s.patRoom o (s.sampleTails o w) l = true → w'.stall = none) ∧
            (s.patRoom o (s.sampleTails o w) l = false → w'.stall = w.stall ∧ t.regs = s.regs))) ∧
    ∀ x : Stream, s.patWork k = none → s.op? k = some o → s.streamOf k = some x → x.stall ≠ none → o.num 10 = 0 →
      Reached s ((o.locOf 12).plus 8) 8 false →
      ∃ t y, exec (.ringTailPoll k []) s = .next t ∧ t.streamOf k = some y ∧ y.tail = s.readNat ((o.locOf 12).plus 8) 8 ∧
        y.delivered = x.delivered ∧ (s.ringRoom { x with tail := y.tail } o = true → y.stall = none) ∧
        (s.ringRoom { x with tail := y.tail } o = false → y.stall = x.stall ∧ t.regs = s.regs)

/-- SCORE_RESULT_DELIVER: the next record's entry goes to its place in the result ring, DONE and CONS rise by one, nothing else is written
and RESULTS counts; a full ring stalls the stream and writes nothing, and RING_STALL counts a stall when it ends (R244); a stream at its
end completes all its ops (R234 to R239). What an entry holds beyond its outputs and flags can be a free value (log entry 64). -/
def ScoreResultsAreDelivered : Prop :=
  ∀ (k : OpKey) (s : State) (o : Op) (x : Stream), s.op? k = some o → s.streamOf k = some x → x.started o = true →
    let n := x.s0 + x.delivered
    (s.beforeEnd x o n = false → ∃ t, exec (.scoreResultDeliver k []) s = .next t ∧ ∀ q ∈ x.keys, t.opOver q) ∧
    ∀ r : ScoreRes, s.beforeEnd x o n = true → o.num 9 = 0 → x.results.find? (fun q => q.num = n && q.replica = n % o.stride) = some r →
      (s.ringRoom x o = false →
        ∃ t y, exec (.scoreResultDeliver k []) s = .next t ∧ t.streamOf k = some y ∧ y.stall = some (x.stall.getD s.now) ∧
          y.delivered = x.delivered ∧ t.hbm = s.hbm ∧ t.hostMem = s.hostMem ∧ t.regs = s.regs) ∧
      (s.ringRoom x o = true → (o.num 10 = 2 → Reached s (o.locOf 14) 16 false) → Untraced s →
        (∀ y ∈ s.se.streams, y.keys.contains k = true → y = x) →
        let bs := r.bytes o s.free 0 (s.read (o.locOf 14) 16)
        let e := (o.locOf 12).plus (64 + r.size o * (x.delivered % o.num 13))
        let cons := x.ring.plus 16
        Reached s e bs.length true → Reached s (o.locOf 12) 8 true → Reached s cons 8 true →
        ∃ t, exec (.scoreResultDeliver k []) s = .next t ∧
          OutsideSame s t [(e, bs.length), (o.locOf 12, 8), (cons, 8)] ∧ t.readNat cons 8 = (n + 1) % 2 ^ 48 ∧
          t.rd Reg.FILTAS_SCORE_COUNT0.RESULTS =
            Reg.FILTAS_SCORE_COUNT0.RESULTS.counted (s.rd Reg.FILTAS_SCORE_COUNT0.RESULTS) 1 ∧
          (∀ since, x.stall = some since → t.rd Reg.FILTAS_SCORE_COUNT3.RING_STALL =
            Reg.FILTAS_SCORE_COUNT3.RING_STALL.counted (s.rd Reg.FILTAS_SCORE_COUNT3.RING_STALL) ((s.now - since) / 1000)) ∧
          (∀ y, t.streamOf k = some y → y.delivered = x.delivered + 1 ∧ y.stall = none) ∧
          (([(e, bs.length), (o.locOf 12, 8), (cons, 8)].Pairwise fun p q =>
              p.1.host ≠ q.1.host ∨ p.1.addr + p.2 ≤ q.1.addr ∨ q.1.addr + q.2 ≤ p.1.addr) →
            t.read e bs.length = bs.map (· % 256) ∧ t.readNat (o.locOf 12) 8 = (x.delivered + 1) % 2 ^ 64))

/-- Scoring streams: their start, their records, and the delivery of results. -/
def Obligations.ScoringRunsAndDelivers : Prop := ScoreStreams ∧ ScoreResultsAreDelivered

/-- The next state of an automaton under a byte, or END: the result of the lowest bank that hits, else 0. A search finds the bits
that are in error as they stand (R205). -/
def nextState (s : State) (o : Op) (flips : List SlotFlip) (id state : Nat) (byte : Option Nat) : Nat :=
  let plan := s.autPlan o.tiles id
  let banks := sortBy (fun a b => decide (a ≤ b)) ((plan.map (·.banks)).getD [])
  let cls := fun (b : Nat) => (plan.map fun a => s.classOf (posTile o.tiles b) a byte).getD 0
  let hits := (banks.map fun b => ((s.tile (posTile o.tiles b)).flipped (posTile o.tiles b) flips).search (patKey state (cls b) id)).filter fun f => f.hit
  (hits.head?.map fun f => f.leaf).getD 0

/-- Every output ring that an op names has room for a lane's outputs. -/
def flushRoom (s : State) (o : Op) (w : PatWork) (l : Lane) : Bool :=
  ((o.ref? 8).isNone || roomIn (o.num 2) (l.num - w.s0) (s.outTail o 8 w.outTail) 1) &&
  ((o.ref? 9).isNone || roomIn (o.num 10) w.reps (s.outTail o 9 w.repTail) l.reports.length) &&
  ((o.ref? 12).isNone || roomIn (o.num 2) (l.num - w.s0) (s.outTail o 12 w.sumTail) 1)

/-- The range of an operand that an op may leave out. -/
def refRange (o : Op) (i n : Nat) : List (Loc × Nat) := (o.ref? i).toList.map fun r => (r.loc, n)

/-- PATTERN: a stream starts at CONS with every lane free (R257); the lowest free lane takes the next published record, a bad length gives
an empty record marked bad (R258, R262); each byte, and END after the last, moves every automaton to its next state (R249, R253, R256);
the oldest record in FLUSH writes its outputs within its rings, and CONS, or stalls while one is full (R264 to R267). -/
def Obligations.PatternStreams : Prop :=
  ∀ (k : OpKey) (s : State) (o : Op),
    (s.opIs k Cls.PATTERN 0 .running = some o → o.work = .none → Reached s (o.locOf 1) 64 false →
      Reached s (o.locOf 5) (2 * (o.num 6 + 1)) false → (∀ a ∈ o.tailAccs, Reached s a.loc a.len false) →
      ∃ t o' w, exec (.pattern k []) s = .next t ∧ t.opAt k = some o' ∧ o'.work = .pattern w ∧
        w.s0 = s.readNat ((o.locOf 1).plus 16) 8 % 2 ^ 48 ∧ w.next = w.s0 ∧ w.flushed = w.s0 ∧ w.stall = none ∧
        w.lanes = List.replicate (o.num 7 + 1) Lane.empty ∧ t.hbm = s.hbm ∧ t.hostMem = s.hostMem) ∧
    ∀ w : PatWork, s.patWork k = some (o, w) → s.groupHeld o.tiles = false → Untraced s →
      (∀ j, s.patBefore o w w.next = true → findPos (fun (l : Lane) => decide (l.st = .free)) w.lanes = some j →
        (∀ x ∈ o.tiles, (s.tile x).edits = []) →
        let loc := (o.locOf 1).plus (64 + 64 * (o.num 3 + 1) * (w.next % o.num 2))
        let len := s.readNat loc 4
        let good := len ≤ 64 * (o.num 3 + 1) - 8
        w.next < s.readNat (o.locOf 1) 8 % 2 ^ 48 → Reached s (o.locOf 1) 64 false → Reached s loc 8 false →
        (good → Reached s loc (8 + len) false) →
        ∃ t o' w' l, exec (.laneRecordStart k []) s = .next t ∧ t.opAt k = some o' ∧ o'.work = .pattern w' ∧ w'.next = w.next + 1 ∧
          w'.lanes = setAt w.lanes j l ∧ l.st = .scan ∧ l.num = w.next ∧ l.offset = 0 ∧ l.states = List.replicate (o.num 6 + 1) 0 ∧
          (good → l.bytes = len ∧ l.bad = false) ∧
          (¬good → l.bytes = 0 ∧ l.bad = true ∧ t.rd Reg.FILTAS_PAT_STATUS.BAD_SEEN = 1) ∧ t.hbm = s.hbm) ∧
      (∀ lane l flips, w.lanes[lane]? = some l → l.st = .scan → l.states.length = o.num 6 + 1 →
        let byte := if l.offset < l.bytes then
          some (s.readNat ((o.locOf 1).plus (64 + 64 * (o.num 3 + 1) * (l.num % o.num 2) + (8 + l.offset))) 1) else none
        ∃ t o' w' l', exec (.patternByte k lane flips) s = .next t ∧ t.opAt k = some o' ∧ o'.work = .pattern w' ∧
          w'.lanes[lane]? = some l' ∧ (∀ i, i ≠ lane → w'.lanes[i]? = w.lanes[i]?) ∧
          (l.offset < l.bytes → l'.st = .scan ∧ l'.offset = l.offset + 1 ∧
            t.rd Reg.FILTAS_PAT_COUNT0.BYTES = Reg.FILTAS_PAT_COUNT0.BYTES.counted (s.rd Reg.FILTAS_PAT_COUNT0.BYTES) 1) ∧
          (l.bytes ≤ l.offset → l'.st = .flush ∧ l'.offset = l.offset) ∧
          (∀ i id, (s.autIds o)[i]? = some id → l'.states[i]? = some (nextState s o flips id (nth l.states 0 i) byte)) ∧
          t.hbm = s.hbm ∧ t.hostMem = s.hostMem) ∧
      ∀ lane l, w.lanes[lane]? = some l → l.st = .flush → l.num = w.flushed →
        (flushRoom s o w l = false →
          ∃ t o', exec (.laneFlush k lane []) s = .next t ∧ t.opAt k = some o' ∧ o'.work = .pattern { w with stall := some (w.stall.getD s.now) } ∧
            t.hbm = s.hbm ∧ t.hostMem = s.hostMem ∧ t.regs = s.regs) ∧
        (flushRoom s o w l = true → 0 < o.num 2 → ((o.ref? 9).isSome = true → 0 < o.num 10) → 8 + l.bytes ≤ 64 * (o.num 3 + 1) →
          let rings := refRange o 8 (64 + 64 * (o.num 3 + 1) * o.num 2) ++ refRange o 9 (64 + 16 * o.num 10) ++
            refRange o 12 (64 + 8 * o.num 2) ++ [((o.locOf 1).plus 16, 8)]
          (∀ r ∈ rings, Reached s r.1 r.2 true) →
          ∃ t, exec (.laneFlush k lane []) s = .next t ∧ OutsideSame s t rings ∧
            t.readNat ((o.locOf 1).plus 16) 8 = (l.num + 1) % 2 ^ 48 ∧
            (t.opOver k ∨ ∃ o' w', t.opAt k = some o' ∧ o'.work = .pattern w' ∧ w'.flushed = l.num + 1 ∧
              w'.lanes = setAt w.lanes lane Lane.empty))

/-- The command that starts a collective of a code. -/
def collStartOf (code : Nat) (k : OpKey) : Instr :=
  if code = Coll.REDUCE_SCATTER then .reduceScatter k [] else if code = Coll.ALL_GATHER then .allGather k [] else .allReduce k []

/-- The completed contributions to a shard, in rank order. -/
def contributions (shard ranks : Nat) (ms : List CollMsg) : List (List Nat) :=
  (List.range ranks).filterMap fun r =>
    (ms.find? fun m => m.shard = shard && m.rank = r && m.done.isSome).map fun m => m.flits.flatMap (·.2)

/-- A collective starts with its rank table, its tag and READY, with the DET it sampled, to every other rank; on a leaving module it fails (R416, R423, R426). What
SCRATCH holds is a free value (log entry 88). -/
def Obligations.CollectivesStart : Prop :=
  ∀ (code : Nat) (k : OpKey) (s : State) (o : Op), code < 3 → s.opIs k Cls.COLLECTIVE code .running = some o → o.work = .none →
    (s.rd Reg.LINK_STATUS.MSTATE = 3 → ∃ t, exec (collStartOf code k) s = .next t ∧ Failed s t k.ctx) ∧
    ∀ (r d : Ref) (t0 td : Tensor),
      let R := o.num 4
      let me := o.num 5
      let ranks := (List.range R).map fun i => s.readNat ((o.locOf 3).plus (8 * i)) 8
      let most := payloadSize (o.num 2) (32 * shardMax o.collB R)
      s.rd Reg.LINK_STATUS.MSTATE ≠ 3 → 2 ≤ R → me < R → o.ref? 0 = some r → r.tensor = some t0 → o.ref? 1 = some d →
      d.tensor = some td → td.fmt = 9 ∨ td.fmt = 10 → Reached s (o.locOf 3) (8 * R) false → Reached s r.loc t0.extent false →
      Reached s d.loc (o.collE * elemSize td.fmt) true → (∀ e, o.ref? 12 = some e → Reached s e.loc (33 * o.collB) false) →
      (∀ e, o.ref? 13 = some e → Reached s e.loc (33 * o.collB) true) →
      (∀ e, o.ref? 14 = some e → Reached s e.loc ((R - 1) * most) true) →
      (∀ e, o.ref? 11 = some e → Reached s e.loc (o.num 10 * R * most) true) →
      (if o.overEth then s.qpsBad k o ranks = false
        else s.tableBad o ranks = false ∧ ∀ m ∈ ranks, s.planesTo (m % 4096) ≠ []) →
      (∀ p ∈ s.dom.early, p.1 = o.num 6 → p.2.1 < R) →
      ∃ t o' w, exec (collStartOf code k) s = .next t ∧ t.opAt k = some o' ∧ o'.st = .running ∧ o'.work = .coll w ∧
        w.tag = o.num 6 ∧ w.ranks = ranks ∧ ∀ i, i < R → i ≠ me → Sent.ready (o.num 6) me o.det (nth ranks 0 i) ∈ t.sent

/-- READY before its collective runs is kept; a READY that arrives is answered with this rank's contribution (R426): its own bytes where the
reducing rank sampled DET 1 or the engine chose no tree or fusion, else free ones (R372). A flit is marked by
its OFFSET and a completed message answered with MSG_DONE (R427); the last contribution to this rank's shard makes its reduction, the
sum in rank order rounded once per rank, which a REDUCE_SCATTER stores at DST (R386, R429). MSG_DONE completes a collective
that has nothing left (R427); NACK fails the op that sent (R420); the straggler deadline drops what is missing, or fails without a
quorum, and WAIT and DET ignore it (R385, R387). -/
def Obligations.CollectivesRun : Prop :=
  ∀ s : State, s.stopped = false →
    (∀ (tag rank : Nat) (det : Bool),
      (s.collOf tag = none → (∀ d, (tag, rank, d) ∉ s.dom.early) →
        ∃ t, exec (.ready tag rank det) s = .next t ∧ (tag, rank, det) ∈ t.dom.early ∧ t.sent = s.sent) ∧
      (∀ d, s.collOf tag = none → (tag, rank, d) ∈ s.dom.early → exec (.ready tag rank det) s = .next s) ∧
      ∀ k o w, s.collOf tag = some k → s.coll? k = some (o, w) → o.overEth = true → o.code = Coll.REDUCE_SCATTER →
        rank ≠ o.myRank → w.ready.contains rank = false → (rank, rank) ∉ w.sent →
        ∃ t bs, exec (.ready tag rank det) s = .next t ∧ Sent.data tag rank o.myRank (nth w.ranks 0 rank) bs ∈ t.sent ∧
          bs.length = (nth w.own [] rank).length ∧ (det = true ∨ w.chosen = 0 → bs = nth w.own [] rank)) ∧
    (∀ (tag rank offset : Nat) (last : Bool) (payload : List Nat) (k : OpKey) (o : Op) (w : CollWork),
      s.collOf tag = some k → s.coll? k = some (o, w) → o.overEth = true → o.code = Coll.REDUCE_SCATTER → rank < o.num 4 →
      rank ≠ o.myRank → (s.sc.lateWait.find? fun l => l.tag = tag && l.msg.shard = o.myRank && l.msg.rank = rank) = none →
      let me := o.myRank
      let old := (w.msgs.find? fun m => m.shard = me && m.rank = rank).getD ⟨me, rank, [], none, none⟩
      let m := old.mark offset last payload s.now
      let ms := w.msgs.filter (fun y => !(y.shard = me && y.rank = rank)) ++ [m]
      let cs := contributions me (o.num 4) ms
      old.done = none →
      (m.done = none →
        ∃ t o' w', exec (.data tag me rank offset last payload []) s = .next t ∧ t.opAt k = some o' ∧ o'.work = .coll w' ∧
          w'.msgs = ms ∧ t.sent = s.sent ∧ t.hbm = s.hbm) ∧
      (m.done.isSome = true → cs.length < o.num 4 →
        ∃ t o' w', exec (.data tag me rank offset last payload []) s = .next t ∧ t.opAt k = some o' ∧ o'.work = .coll w' ∧
          w'.msgs = ms ∧ Sent.ctrl Ctrl.MSG_DONE (nth w.ranks 0 rank) [tag, me, me] ∈ t.sent ∧ t.hbm = s.hbm) ∧
      ∀ (d : Ref) (td : Tensor), m.done.isSome = true → cs.length = o.num 4 → w.judged = false → w.chosen = 0 ∨ o.det = true → o.num 8 = 0 ∨ o.det = true →
        o.ref? 1 = some d → d.tensor = some td →
        let bs := plainBytes td.fmt (((List.range (32 * o.shardLen me)).map fun e =>
          f32Val (cs.foldl (fun a c => f32Acc a (nth (payloadDec (o.num 2) (o.shardLen me) c) Sys2Proof.Machine.Num.zero e)) 0)).take (o.shardElems me))
        Reached s d.loc bs.length true →
        ∃ t, exec (.data tag me rank offset last payload []) s = .next t ∧ StoredAt s t d.loc bs ∧
          Sent.ctrl Ctrl.MSG_DONE (nth w.ranks 0 rank) [tag, me, me] ∈ t.sent) ∧
    (∀ (tag shard rank : Nat) (k : OpKey) (o : Op) (w : CollWork), s.collOf tag = some k → s.coll? k = some (o, w) →
      (shard, rank) ∉ w.acked →
      let w' := { w with acked := (shard, rank) :: w.acked }
      (collComplete o w' = false →
        ∃ t o', exec (.msgDone tag shard rank) s = .next t ∧ t.opAt k = some o' ∧ o'.work = .coll w' ∧ t.regs = s.regs) ∧
      (collComplete o w' = true →
        ∃ t, exec (.msgDone tag shard rank) s = .next t ∧ t.opHas k .executed ∧
          t.rd Reg.COLL_COUNT.DONE = Reg.COLL_COUNT.DONE.counted (s.rd Reg.COLL_COUNT.DONE) 1)) ∧
    (∀ (code tag addr : Nat) (k : OpKey),
      (s.collOf tag = some k → ∃ t, exec (.nack code tag addr) s = .next t ∧ Failed s t k.ctx ∧
        t.rd Reg.COLL_STATUS.PEER_LOST_SEEN = 1) ∧
      (∀ i, s.collOf tag = none → s.xferAt addr = some (k, i) → ∃ t, exec (.nack code tag addr) s = .next t ∧ Failed s t k.ctx ∧
        t.rd Reg.SE_STATUS.NACK_SEEN = 1) ∧
      (∀ i, s.collOf tag = none → s.xferAt addr = none → s.droppedAt addr = some (k, i) →
        ∃ t, exec (.nack code tag addr) s = .next t ∧ t.rd Reg.SE_STATUS.NACK_SEEN = 1)) ∧
    ∀ (k : OpKey) (o : Op) (w : CollWork), s.coll? k = some (o, w) → o.reduces = true → w.judged = false →
      let me := o.myRank
      let here := (contributions me (o.num 4) w.msgs).length
      (o.num 8 = 0 ∨ o.det = true ∨ s.now < shardDeadline o w → exec (.stragglerDeadline k me []) s = .next s) ∧
      (o.num 8 ≠ 0 → o.det = false → shardDeadline o w ≤ s.now → 2 * here < o.num 4 →
        ∃ t, exec (.stragglerDeadline k me []) s = .next t ∧ Failed s t k.ctx) ∧
      (o.num 8 = 1 → o.det = false → shardDeadline o w ≤ s.now → o.num 4 ≤ 2 * here → here < o.num 4 →
        (∀ m ∈ w.msgs, ∀ d, m.done = some d → d ≤ shardDeadline o w) →
        ∃ t, exec (.stragglerDeadline k me []) s = .next t ∧
          t.rd Reg.SC_COUNT1.DROPPED = Reg.SC_COUNT1.DROPPED.counted (s.rd Reg.SC_COUNT1.DROPPED) (o.num 4 - here) ∧
          t.sc.dropped = s.sc.dropped + (o.num 4 - here))

/-! ## The step controller -/

/-- STEP_COMMIT forms its vote and sends it to the root, with its own scope and deadline kept (R375 to R377); VOTE and its deadline make the
root decide: ABORT on a vote that is not READY, on a deadline that has passed, else it waits for its membership (R378, R417, R418). The root
of a domain of one decides at once, and a COMMIT flips the committed slot, with its journal entry queued once no held policy tile keeps the
resolution waiting (R177, R380). -/
def Obligations.VotesAreDecided : Prop :=
  ∀ s : State, s.stopped = false →
    (∀ (k : OpKey) (o : Op), s.opIs k Cls.STEP 0 .running = some o → o.work = .none → s.phase = Phase.VOTING →
      s.shadowWaits o.det = false → s.on Reg.SC_CTRL.REPLAY = false →
      let ready := s.voteReady (o.num 0)
      (∀ r, s.root? = some r → r ≠ s.myIndex → s.planesTo r ≠ [] →
        ∃ t, exec (.stepCommit k) s = .next t ∧ Sent.ctrl Ctrl.VOTE r [o.num 0, o.num 1, b2n ready, s.dom.epoch] ∈ t.sent ∧
          t.sc.commit = some k ∧ t.sc.scope = o.num 1 ∧ t.sc.deadline = o.num 2 ∧ t.phase = Phase.VOTING) ∧
      (s.dom.members = [s.myIndex] → s.dom.membership = [s.myIndex] → s.dom.votes = [] → s.dom.decided = none →
        s.dom.elected = none → s.dims = (1, 1, 1) → s.sc.flip = none → s.sc.half = false →
        let cur := s.rd Reg.SC_STATUS.COMMIT_SLOT
        (ready = true → o.num 1 = 0 → cur < 2 → s.rd (pinFld cur) = 0 → s.dom.departed = false →
          ∃ t, exec (.stepCommit k) s = .next t ∧ t.rd Reg.SC_STATUS.COMMIT_SLOT = 1 - cur ∧
            (s.resolveWaits = false → ∃ e ∈ t.sc.jpend, e.typ = J.COMMIT ∧ e.commits = true ∧ e.step = s.rd Reg.SC_STEP.COUNT)) ∧
        (ready = false →
          ∃ t, exec (.stepCommit k) s = .next t ∧ t.phase = Phase.OPEN ∧ t.rd Reg.SC_LAST.OUTCOME = 2 ∧ Failed s t k.ctx))) ∧
    (∀ v : Vote,
      (s.isRoot = false → exec (.vote v) s = .next s) ∧
      (s.isRoot = true → s.dom.elected ≠ some v.step → s.dom.decided = none →
        (v.ready = false →
          ∃ t d, exec (.vote v) s = .next t ∧ t.dom.votes = [] ∧ t.dom.decided = some d ∧ d.2.1 = .abort ∧ v.member ∈ t.dom.answered) ∧
        (v.ready = true → s.dom.votes = [] → s.dom.epoch ≤ v.epoch → s.dom.departed = false →
          (∀ m ∈ s.dom.membership, m ∈ s.dom.members) →
          s.dims.1 * s.dims.2.1 * s.dims.2.2 < 2 * s.dom.members.length → (∃ m ∈ s.dom.membership, m ≠ v.member) →
          ∃ t, exec (.vote v) s = .next t ∧ t.dom.votes = [v] ∧ t.dom.voteTime = s.now ∧ t.dom.decided = none ∧
            t.regs = s.regs ∧ t.sent = s.sent))) ∧
    ∀ v rest, s.dom.votes = v :: rest →
      (s.isRoot = false ∨ s.voteDue = false → exec .voteDeadline s = .next s) ∧
      (s.isRoot = true → s.voteDue = true → ∃ t d, exec .voteDeadline s = .next t ∧ t.dom.votes = [] ∧ t.dom.decided = some d ∧ d.2.1 = .abort)

/-- A decision: ABORT opens the step again and fails its STEP_COMMIT; COMMIT of scope 1 leaves it PREPARED, of scope 0 flips or waits for the
pins of the committed slot; one that comes late is only recorded (R379 to R384). No decision by twice its deadline leaves the step IN_DOUBT (R382). A
resolve that names the step commits or aborts it from PREPARED or IN_DOUBT; another changes nothing of the step (R383). -/
def Obligations.DecisionsAndResolves : Prop :=
  ∀ s : State, s.stopped = false →
    let cur := s.rd Reg.SC_STATUS.COMMIT_SLOT
    (∀ ready missing : Nat,
      (s.phase = Phase.IN_DOUBT →
        (∃ t, exec (.decision .abort ready missing) s = .next t ∧ t.rd Reg.SC_LAST.LATE_DECISION = 2 ∧ t.phase = Phase.IN_DOUBT ∧
          t.sc = s.sc) ∧
        ∃ t, exec (.decision .commit ready missing) s = .next t ∧
          t.rd Reg.SC_LAST.LATE_DECISION = (if s.sc.scope = 1 then 3 else 1) ∧ t.phase = Phase.IN_DOUBT ∧ t.sc = s.sc) ∧
      (s.phase = Phase.VOTING → s.voted = true → s.sc.flip = none →
        (∀ k, s.sc.commit = some k →
          ∃ t, exec (.decision .abort ready missing) s = .next t ∧ t.phase = Phase.OPEN ∧ t.rd Reg.SC_LAST.OUTCOME = 2 ∧
            Failed s t k.ctx ∧ t.sc.commit = none ∧
            t.rd Reg.SC_COUNT0.ABORTS = Reg.SC_COUNT0.ABORTS.counted (s.rd Reg.SC_COUNT0.ABORTS) 1) ∧
        (s.sc.scope = 1 →
          ∃ t, exec (.decision .commit ready missing) s = .next t ∧ t.phase = Phase.PREPARED ∧ t.rd Reg.SC_LAST.OUTCOME = 3 ∧
            t.rd Reg.SC_STATUS.COMMIT_SLOT = cur ∧ t.sc = s.sc) ∧
        (s.sc.scope = 0 → s.sc.half = false → cur < 2 →
          (s.rd (pinFld cur) = 0 → ∃ t, exec (.decision .commit ready missing) s = .next t ∧
            t.rd Reg.SC_STATUS.COMMIT_SLOT = 1 - cur ∧
            (s.resolveWaits = false → ∃ e ∈ t.sc.jpend, e.typ = J.COMMIT ∧ e.commits = true)) ∧
          (s.rd (pinFld cur) ≠ 0 → s.on Reg.SC_CTRL.SNAP_POLICY = false →
            ∃ t, exec (.decision .commit ready missing) s = .next t ∧ t.phase = Phase.PIN_WAIT ∧
              t.rd Reg.SC_STATUS.COMMIT_SLOT = cur)))) ∧
    (∀ k, s.sc.commit = some k → s.phase = Phase.VOTING → s.voted = true → s.sc.flip = none →
      (s.now < s.sc.votedAt + 2000 * s.sc.deadline → exec .decisionTimeout s = .next s) ∧
      (s.sc.votedAt + 2000 * s.sc.deadline ≤ s.now →
        ∃ t, exec .decisionTimeout s = .next t ∧ t.phase = Phase.IN_DOUBT ∧ t.rd Reg.SC_LAST.OUTCOME = 4 ∧ Failed s t k.ctx ∧
          t.sc.commit = none)) ∧
    (s.valid = true → s.phase = Phase.PREPARED ∨ s.phase = Phase.IN_DOUBT → s.sc.flip = none →
      (s.rd Reg.SC_RESOLVE_STEP.STEP = s.rd Reg.SC_STEP.COUNT → s.sc.half = false →
        (cur < 2 → s.rd (pinFld cur) = 0 →
          ∃ t, exec (.scResolveCommit (hostWrite 1)) s = .next t ∧ t.rd Reg.SC_STATUS.COMMIT_SLOT = 1 - cur ∧
            (s.phase = Phase.IN_DOUBT ∨ s.resolveWaits = false → ∃ e ∈ t.sc.jpend, e.typ = J.RESOLVED_COMMIT ∧ e.commits = true)) ∧
        ∃ t, exec (.scResolveAbort (hostWrite 2)) s = .next t ∧ t.phase = Phase.OPEN ∧ t.rd Reg.SC_LAST.OUTCOME = 6 ∧
          t.rd Reg.SC_STATUS.COMMIT_SLOT = cur ∧ t.sc.commit = none) ∧
      (s.rd Reg.SC_RESOLVE_STEP.STEP ≠ s.rd Reg.SC_STEP.COUNT →
        (∃ t, exec (.scResolveCommit (hostWrite 1)) s = .next t ∧ t.phase = s.phase ∧ t.sc = s.sc ∧
          t.rd Reg.SC_STATUS.COMMIT_SLOT = cur) ∧
        ∃ t, exec (.scResolveAbort (hostWrite 2)) s = .next t ∧ t.phase = s.phase ∧ t.sc = s.sc ∧
          t.rd Reg.SC_STATUS.COMMIT_SLOT = cur))

/-- The step's own registers are written, and journalled as RUN, only while PHASE is OPEN and no STEP_COMMIT is about; else the write drops
as a lock violation (R366, R396); DET's writes are journalled (R370). SNAPSHOT, whose slot was pinned at its dispatch, takes its regions in
that slot, and its completion writes its status, unpins and completes it (R390 to R392). The oldest journal entry goes to the reserve and, while EN reads 1, to the host's ring; it
waits while that is full; a commit's entry opens the next step (R380, R396). -/
def Obligations.StepStateIsJournalled : Prop :=
  ∀ s : State,
    (s.valid = true →
      (∀ v, s.stepWindow = true →
        (∀ f ∈ [Reg.SC_STEP.COUNT, Reg.SC_SEED_LO.SEED, Reg.SC_SEED_HI.SEED, Reg.SC_CTRL.TRAIN_CTX, Reg.SC_CTRL.REPLAY],
          ∃ t e, exec (.stepStateWrite f.off (hostWrite v)) s = .next t ∧ t.rd f = bitsOf v f.lo f.w ∧
            t.sc.jpend = s.sc.jpend ++ [e] ∧ e.typ = J.RUN ∧ (f.off = Reg.SC_CTRL.TRAIN_CTX.off → t.rd Reg.SC_STATUS.STEP_FAULT = 0))) ∧
      (∀ v, s.stepWindow = false → s.phase ≠ Phase.PIN_WAIT →
        (∀ f ∈ [Reg.SC_STEP.COUNT, Reg.SC_SEED_LO.SEED, Reg.SC_SEED_HI.SEED, Reg.SC_CTRL.TRAIN_CTX, Reg.SC_CTRL.REPLAY],
          ∃ t, exec (.stepStateWrite f.off (hostWrite v)) s = .next t ∧ t.rd f = s.rd f ∧ t.sc = s.sc ∧
            t.rd Reg.LOCK_STATUS.LOCK_VIOLATION = 1 ∧
            (f.off = Reg.SC_CTRL.SNAP_POLICY.off → t.rd Reg.SC_CTRL.SNAP_POLICY = bitsOf v 12 1))) ∧
      ∀ v, ∃ t e, exec (.detWrite (hostWrite v)) s = .next t ∧ t.rd Reg.GLOBAL_MODE.DET = bitsOf v Reg.GLOBAL_MODE.DET.lo 1 ∧
        t.sc.jpend = s.sc.jpend ++ [e] ∧ e.typ = J.DET ∧ e.payload = [t.rd Reg.GLOBAL_MODE.DET]) ∧
    (∀ (k : OpKey) (o : Op) (q : Qp) (slot step : Nat) (rs : List (Loc × Nat × Nat)), s.opIs k Cls.STEP 1 .running = some o →
      o.work = .snap slot step [] false → Reached s (o.locOf 0) (32 * o.num 1) false →
      allSome ((List.range (o.num 1)).map fun i => s.snapRegion k.ctx slot (s.read ((o.locOf 0).plus (32 * i)) 32)) = some rs →
      s.qp? (o.num 2 / 2 ^ 24) (o.num 2 % 2 ^ 24) = some q →
      (q.owner = k.ctx → q.error = false → (∀ r ∈ rs, Reached s r.1 r.2.1 false) →
        ∃ t o', exec (.snapshot k []) s = .next t ∧ t.rd (pinFld slot) = s.rd (pinFld slot) ∧ t.opAt k = some o' ∧
          o'.work = .snap slot step rs false ∧ t.hbm = s.hbm) ∧
      (q.owner ≠ k.ctx → ∃ t, exec (.snapshot k []) s = .next t ∧ Failed s t k.ctx)) ∧
    (∀ (k : OpKey) (o : Op) (slot step acked : Nat) (rs : List (Loc × Nat × Nat)), s.opIs k Cls.STEP 1 .running = some o →
      o.work = .snap slot step rs false → rs ≠ [] → Untraced s →
      let total := sumNat (rs.map fun r => r.2.1)
      (acked < total → exec (.snapshotComplete k acked []) s = .next s) ∧
      (total ≤ acked → Reached s (o.locOf 5) 64 true → s.sc.flip = none →
        ∃ t, exec (.snapshotComplete k acked []) s = .next t ∧ t.opOver k ∧
          t.rd (pinFld slot) = (s.rd (pinFld slot) - 1) % 2 ^ 4 ∧
          StoredAt s t (o.locOf 5)
            (leBytes 8 step ++ [slot, 0, 0, 0, 0, 0, 0, 0] ++ leBytes 8 total ++ List.replicate 40 0))) ∧
    ∀ e rest, s.stopped = false → (∀ f, s.sc.flip = some f → f.queued = true) → s.sc.jpend = e :: rest →
      let head := s.rd Reg.SC_JNL_HEAD.HEAD
      let a := s.sc.jBase + 128 * (head % 2 ^ s.sc.jSizeLog2)
      let bs := e.bytes s.sc.jseq s.now
      (s.on Reg.SC_JNL_CTRL.EN = true → s.jnlFull = true → exec .journalWrite s = .next s) ∧
      (s.on Reg.SC_JNL_CTRL.EN = false ∨ s.jnlFull = false →
        ∃ t, exec .journalWrite s = .next t ∧ t.sc.jpend = rest ∧ t.sc.jseq = s.sc.jseq + 1 ∧
          mapGet? t.sc.reserve (s.sc.jseq % 4096) = some bs ∧
          (s.on Reg.SC_JNL_CTRL.EN = false → t.hostMem = s.hostMem) ∧
          (s.on Reg.SC_JNL_CTRL.EN = true → s.windowAdmits a 128 true = true →
            Memory.stored s.hostMem t.hostMem a bs ∧ t.rd Reg.SC_JNL_HEAD.HEAD = (head + 1) % 2 ^ 32) ∧
          (s.on Reg.SC_JNL_CTRL.EN = true → s.windowAdmits a 128 true = false → t.rd Reg.SC_JNL_CTRL.EN = 0) ∧
          (e.commits = true → t.rd Reg.SC_STEP.COUNT = (s.rd Reg.SC_STEP.COUNT + 1) % 2 ^ 64 ∧ t.phase = Phase.OPEN ∧
            t.sc.commit = none ∧ t.rd Reg.SC_COUNT0.COMMITS = Reg.SC_COUNT0.COMMITS.counted (s.rd Reg.SC_COUNT0.COMMITS) 1))

/-! ## Link, domain and Ethernet -/

/-- On a hop in service a replay counts and the fourth failure sounds the whistle (R19, R20). A flit in sequence advances EXPECT and transit
traffic joins its next port, where it goes out at once when nothing waits before it and there is a credit; one that fails is asked for again,
RETRIES counted, and the eighth failure takes the port DOWN; RETRY sends the flits from its SEQ on again (R404 to R407). Silence for 10 µs
retrains a port (R408); training ends UP with its expected peer, or DOWN and MISWIRED (R409); a
neighbour's DOWN_NOTICE retrains the port and goes on to the root (R413). -/
def Obligations.LinkPortsCarryFlits : Prop :=
  ∀ s : State, s.stopped = false →
    (∀ island link replays : Nat,
      exec (.packageFlitReceive island link .none replays) s = .next s ∧
      (∀ r, s.hopWorks island link = false → exec (.packageFlitReceive island link r replays) s = .next s) ∧
      (replays < 4 → s.hopWorks island link = true → ∃ t, exec (.packageFlitReceive island link .ue replays) s = .next t ∧
        t.rd Reg.FLT_CLASS_P.COUNT = min (s.rd Reg.FLT_CLASS_P.COUNT + 1) (2 ^ 64 - 1) ∧ t.stopped = false) ∧
      (4 ≤ replays → s.hopWorks island link = true → s.muted = false → s.stage = Stage.READY →
        ∃ t, exec (.packageFlitReceive island link .ue replays) s = .next t ∧ t.stopped = true ∧ t.pins.whistle = true ∧
          t.rd Reg.FLT_STATUS.D_TYPE = Ev.NET_FAIL)) ∧
    (∀ p : Nat, p < 18 → s.portState p = Port.UP →
      (∀ bs : List Nat, flitOk bs = true → (hdrOf bs).typ ≠ 0 → (hdrOf bs).typ < 5 → flitSeq bs = (s.port p).expect →
        ∃ t, exec (.flitReceive p bs false 0) s = .next t ∧ (t.port p).expect = ((s.port p).expect + 1) % 4096 ∧ (t.port p).fails = 0 ∧
          (t.port p).retried = false ∧
          ∀ dir, (hdrOf bs).dst ≠ s.myIndex → s.hop (hdrOf bs).plane s.myIndex (hdrOf bs).dst = some dir →
            let q := 6 * (hdrOf bs).plane + dir
            q ≠ p → s.portState q = Port.UP →
            (t.port q).unacked.length + (t.port q).waiting.length = (s.port q).unacked.length + (s.port q).waiting.length + 1 ∧
            ((s.port q).waiting = [] → (∀ v, v < 4 → 0 < nth (s.port q).credits 0 v) → (s.port q).unacked.length < replayDepth →
              (t.port q).unacked.length = (s.port q).unacked.length + 1)) ∧
      (∀ (bs : List Nat) (fecBad : Bool), fecBad = true ∨ flitOk bs = false →
        (s.port p).retried = false ∨ flitSeq bs = (s.port p).expect →
        ((s.port p).fails < 7 →
          ∃ t, exec (.flitReceive p bs fecBad 0) s = .next t ∧ Sent.retry p (s.port p).expect ∈ t.sent ∧
            (t.port p).fails = (s.port p).fails + 1 ∧ (t.port p).expect = (s.port p).expect ∧
            t.rd (Reg.LINK_PORT_COUNT.RETRIES p) =
              (Reg.LINK_PORT_COUNT.RETRIES p).counted (s.rd (Reg.LINK_PORT_COUNT.RETRIES p)) 1) ∧
        (7 ≤ (s.port p).fails →
          ∃ t, exec (.flitReceive p bs fecBad 0) s = .next t ∧ t.rd (Reg.LINK_PORT.STATE p) = Port.DOWN ∧
            t.rd Reg.COLL_STATUS.LINK_DOWN_SEEN = 1)) ∧
      (∀ seq credit : Nat, ∃ t, exec (.retry p seq credit) s = .next t ∧
        (∀ e ∈ (s.port p).unacked, 2048 ≤ ((seq + 4095) % 4096 + 4096 - e.1) % 4096 →
          ∃ give, Sent.flit p (e.2.1.bytes e.1 (s.rxAck p) give e.2.2) ∈ t.sent) ∧ (t.port p).expect = (s.port p).expect ∧
        t.rd (Reg.LINK_PORT_COUNT.RETRIES p) = (Reg.LINK_PORT_COUNT.RETRIES p).counted (s.rd (Reg.LINK_PORT_COUNT.RETRIES p)) 1) ∧
      (s.now < (s.port p).lastRx + 10000 → exec (.linkSilence p) s = .next s) ∧
      ((s.port p).lastRx + 10000 ≤ s.now →
        ∃ t, exec (.linkSilence p) s = .next t ∧ t.rd (Reg.LINK_PORT.STATE p) = Port.TRAINING ∧
          t.rd Reg.COLL_STATUS.LINK_DOWN_SEEN = 1) ∧
      ∀ m : Nat, s.isRoot = false →
        ∃ t, exec (.downNotice p m) s = .next t ∧ t.rd (Reg.LINK_PORT.STATE p) = Port.TRAINING ∧ t.dom = s.dom) ∧
    (∀ p m r : Nat, p < 18 → s.portState p ≠ Port.UP → s.isRoot = false → s.root? = some r → s.planesTo r ≠ [] →
      ∃ t, exec (.downNotice p m) s = .next t ∧ Sent.ctrl Ctrl.DOWN_NOTICE r [m] ∈ t.sent) ∧
    ∀ p : Nat, p < 18 → s.portState p = Port.TRAINING →
      exec (.portTrainingDone p .noPeer) s = .next s ∧
      (∃ t, exec (.portTrainingDone p (.up (s.expectedPeer p))) s = .next t ∧ t.rd (Reg.LINK_PORT.STATE p) = Port.UP ∧
        t.rd (Reg.LINK_PORT.MISWIRED p) = 0 ∧ t.port p = { PortSt.reset with lastTx := s.now, lastRx := s.now }) ∧
      ∀ peer : Nat,
        (∃ t, exec (.portTrainingDone p (.miswired peer)) s = .next t ∧ t.rd (Reg.LINK_PORT.STATE p) = Port.DOWN ∧
          t.rd (Reg.LINK_PORT.MISWIRED p) = 1) ∧
        (peer ≠ s.expectedPeer p → ∃ t, exec (.portTrainingDone p (.up peer)) s = .next t ∧
          t.rd (Reg.LINK_PORT.STATE p) = Port.DOWN ∧ t.rd (Reg.LINK_PORT.MISWIRED p) = 1)

/-- Membership: JOIN and LEAVE move MSTATE and send their requests (R416); a joiner becomes MEMBER by a map that names it, or root of itself
alone when it hears none for 1 ms (R411, R414, R416); a member that a map leaves out is out; a module that has drained leaves (R416). The
root follows its members' ports, removes who leaves, falls silent for 300 µs or is reported down, and admits its joiners in the next MAP it
sends while it holds no vote, with a new EPOCH (R411, R413, R414); when the root falls silent the lowest member left becomes root, every
other module is out (R411, R416, R419). -/
def Obligations.MembershipFollowsMaps : Prop :=
  ∀ s : State, s.stopped = false →
    let me := s.myIndex
    let e' := (s.dom.epoch + 1) % 2 ^ 32
    (s.valid = true →
      (s.mstate = Mst.NONE → ∃ t, exec (.linkJoin (hostWrite 1)) s = .next t ∧ t.mstate = Mst.JOINING ∧
        t.sent = s.sent ++ [.ctrl Ctrl.JOIN 0xFFFF [me, s.myPorts]]) ∧
      (s.mstate = Mst.MEMBER → ∃ t, exec (.linkLeave (hostWrite 2)) s = .next t ∧ t.mstate = Mst.LEAVING ∧ t.dom = s.dom) ∧
      (s.mstate = Mst.JOINING → ∃ t, exec (.linkLeave (hostWrite 2)) s = .next t ∧ t.mstate = Mst.NONE ∧ t.dom = s.dom)) ∧
    (s.mstate = Mst.JOINING → s.now < s.dom.mapAt + 1000000 → exec .joinTimeout s = .next s) ∧
    (s.mstate = Mst.JOINING → s.dom.mapAt + 1000000 ≤ s.now → ∃ t, exec .joinTimeout s = .next t ∧ t.mstate = Mst.MEMBER ∧ t.dom.members = [me] ∧
      t.dom.epoch = e' ∧ t.rd Reg.LINK_STATUS.ROOT = 1 ∧ t.isRoot = true) ∧
    (∀ (root : Nat) (ms : List Nat) (ps : List (Nat × Nat)) (epoch : Nat),
      (s.mstate = Mst.NONE → exec (.map root ms ps epoch) s = .next s) ∧
      (s.mstate = Mst.JOINING → me ∈ ms →
        ∃ t, exec (.map root ms ps epoch) s = .next t ∧ t.mstate = Mst.MEMBER ∧ t.dom.epoch = epoch ∧ ∀ m, m ∈ t.dom.members ↔ m ∈ ms) ∧
      (s.mstate = Mst.MEMBER → me ∉ ms → s.followsMap root epoch = true →
        ∃ t, exec (.map root ms ps epoch) s = .next t ∧ t.mstate = Mst.NONE ∧ t.dom.members = [] ∧
          t.rd Reg.LINK_STATUS.ROOT = 0)) ∧
    (s.mstate = Mst.LEAVING → s.running Cls.COLLECTIVE = 0 → (∀ x ∈ s.link, x.2.unacked = [] ∧ x.2.waiting = []) →
      ∃ t, exec .leaveDrained s = .next t ∧ t.mstate = Mst.NONE ∧ t.dom.members = [] ∧
        ∀ r, s.root? = some r → r ≠ me → s.planesTo r ≠ [] → Sent.ctrl Ctrl.LEAVE r [me] ∈ t.sent) ∧
    (s.active = true →
      (∀ r, s.root? = some r → r ≠ me →
        (s.planesTo r ≠ [] →
          ∃ t, exec .heartbeatTimer s = .next t ∧ Sent.ctrl Ctrl.HEARTBEAT r [me, s.myPorts] ∈ t.sent ∧ t.dom = s.dom) ∧
        exec .mapTimer s = .next s ∧ (∀ m ports, exec (.join m ports) s = .next s) ∧
        (s.now < s.dom.mapAt + 300000 → exec .mapTimeout s = .next s) ∧
        (s.mstate = Mst.LEAVING ∨ (s.dom.members.filter (· != r)).min? ≠ some me → s.dom.mapAt + 300000 ≤ s.now →
          ∃ t, exec .mapTimeout s = .next t ∧ t.mstate = Mst.NONE ∧ t.dom.members = []) ∧
        (s.mstate = Mst.MEMBER → (s.dom.members.filter (· != r)).min? = some me → s.dom.mapAt + 300000 ≤ s.now → s.dom.joiners = [] →
          ∃ t, exec .mapTimeout s = .next t ∧ t.dom.members = s.dom.members.filter (· != r) ∧ t.dom.epoch = e' ∧
            t.rd Reg.LINK_STATUS.ROOT = 1 ∧ t.dom.elected = some (s.rd Reg.SC_STEP.COUNT) ∧ t.dom.votes = [])) ∧
      (s.isRoot = true →
        (mapGet s.dom.ports 0 me = s.myPorts → exec .heartbeatTimer s = .next s) ∧
        (∀ m ports, ∃ t, exec (.join m ports) s = .next t ∧ mapGet? t.dom.joiners m = some ports ∧ t.dom.members = s.dom.members) ∧
        (s.dom.votes = [] → s.dom.joiners ≠ [] →
          ∃ t, exec .mapTimer s = .next t ∧ (∀ j ∈ s.dom.joiners, j.1 ∈ t.dom.members ∧ j.1 ∈ t.dom.membership) ∧ t.dom.joiners = [] ∧
            t.dom.epoch = e') ∧
        (∀ m ports, m ∈ s.dom.members → mapGet s.dom.ports 0 m ≠ ports →
          ∃ t, exec (.heartbeat m ports) s = .next t ∧ t.dom.epoch = e' ∧ t.dom.members = addMembers s.joinersNow s.dom.members ∧
            (s.joinersNow = [] → mapGet t.dom.ports 0 m = ports)) ∧
        ∀ m, m ∈ s.dom.members → m ≠ me →
          (s.now < mapGet s.dom.heard 0 m + 300000 → exec (.memberTimeout m) s = .next s) ∧
          ∀ c ∈ (if mapGet s.dom.heard 0 m + 300000 ≤ s.now then [Instr.memberTimeout m] else []) ++ [Instr.leave m, Instr.downNotice 18 m],
            ∃ t, exec c s = .next t ∧ t.dom.members = addMembers s.joinersNow (s.dom.members.filter (· != m)) ∧ t.dom.epoch = e'))

/-- An RDMA request that its owner's relocation table admits is served: a WRITE stores its bytes at its place and nowhere else, a READ
answers with the bytes there, a SEND is acknowledged, and each advances the queue pair by its packets; one that is refused is answered with
a NAK, counted, and the queue pair is in ERROR (R452 to R455). -/
def RdmaRequestsAreServed : Prop :=
  ∀ (port qpn : Nat) (s : State) (q : Qp), s.qpServing port qpn = some q →
    (∀ (bs : List Nat), ∃ t q', exec (.send port qpn bs) s = .next t ∧ t.qp? port qpn = some q' ∧
      q'.rqPsn = (q.rqPsn + packets bs.length) % 2 ^ 24 ∧ t.sent = s.sent ++ [.ethReply port qpn []]) ∧
    (∀ (rkey off : Nat) (bs : List Nat),
      (∀ l, s.rkeyLoc q.owner rkey off bs.length false true = some l → Reached s l bs.length true →
        ∃ t q', exec (.rdmaWrite port qpn rkey off bs []) s = .next t ∧ StoredAt s t l bs ∧ t.qp? port qpn = some q' ∧
          q'.rqPsn = (q.rqPsn + packets bs.length) % 2 ^ 24 ∧ q'.error = false ∧ t.regs = s.regs) ∧
      (s.rkeyLoc q.owner rkey off bs.length false true = none →
        ∃ t q', exec (.rdmaWrite port qpn rkey off bs []) s = .next t ∧ t.qp? port qpn = some q' ∧ q'.error = true ∧
          Sent.ethNak port qpn ∈ t.sent ∧
          t.rd (Reg.ETH_COUNT.NAKS port) = (Reg.ETH_COUNT.NAKS port).counted (s.rd (Reg.ETH_COUNT.NAKS port)) 1)) ∧
    ∀ rkey off len : Nat,
      (∀ l, s.rkeyLoc q.owner rkey off len true false = some l → Reached s l len false →
        ∃ t q', exec (.rdmaRead port qpn rkey off len []) s = .next t ∧ t.sent = s.sent ++ [.ethReply port qpn (s.seen l len)] ∧
          t.qp? port qpn = some q' ∧ q'.rqPsn = (q.rqPsn + packets len) % 2 ^ 24 ∧ t.hbm = s.hbm ∧ t.hostMem = s.hostMem ∧
          t.regs = s.regs) ∧
      (s.rkeyLoc q.owner rkey off len true false = none →
        ∃ t q', exec (.rdmaRead port qpn rkey off len []) s = .next t ∧ t.qp? port qpn = some q' ∧ q'.error = true ∧
          Sent.ethNak port qpn ∈ t.sent)

/-- An Ethernet port counts what it retransmits, answers requests for its own address, and pauses the priorities that a flow control frame
names among those of PFC_MASK (R451); a NAK, or a seventh retry that fails, puts its queue pair in ERROR (R456); a lost link puts the
port in TRAINING, on the third loss within a second DOWN, with every queue pair of the port in ERROR, and training brings it UP (R457). -/
def EthernetPortsFollowTheirLinks : Prop :=
  ∀ (p : Nat) (s : State), s.stopped = false → p < 6 →
    (s.ethState p = Port.TRAINING → ∃ t, exec (.ethTrainingDone p) s = .next t ∧ t.ethState p = Port.UP ∧ t.qps = s.qps) ∧
    (∀ (qpn : Nat) (q : Qp), s.qp? p qpn = some q →
      ∃ t q', exec (.ethRetryExhausted p qpn) s = .next t ∧ t.qp? p qpn = some q' ∧ q'.error = true) ∧
    (s.ethState p = Port.UP →
      (∀ n, ∃ t, exec (.roceRetransmission p n) s = .next t ∧
        t.rd (Reg.ETH_COUNT.RETRANS p) = (Reg.ETH_COUNT.RETRANS p).counted (s.rd (Reg.ETH_COUNT.RETRANS p)) n ∧ t.sent = s.sent) ∧
      (∃ t, exec (.arpRequest p true) s = .next t ∧ t.sent = s.sent ++ [.arpReply p] ∧ t.regs = s.regs) ∧
      exec (.arpRequest p false) s = .next s ∧
      (∀ mask, ∃ t, exec (.priorityFlowControlFrame p mask) s = .next t ∧
        (t.ethPort p).paused = mask &&& s.rd (Reg.ETH_PORT.PFC_MASK p) ∧ t.regs = s.regs ∧ ∀ o, o ≠ p → t.ethPort o = s.ethPort o) ∧
      (∀ (qpn : Nat) (q : Qp), s.qp? p qpn = some q →
        ∃ t q', exec (.ethNak p qpn) s = .next t ∧ t.qp? p qpn = some q' ∧ q'.error = true ∧
          t.rd (Reg.ETH_COUNT.NAKS p) = (Reg.ETH_COUNT.NAKS p).counted (s.rd (Reg.ETH_COUNT.NAKS p)) 1) ∧
      ∃ t, exec (.ethLinkLost p) s = .next t ∧
        t.ethState p = (if 2 ≤ ((s.ethPort p).losses.filter fun x => decide (s.now ≤ x + 1000000000)).length then Port.DOWN
          else Port.TRAINING) ∧
        (t.ethPort p).losses.head? = some s.now ∧
        ∀ qpn q, s.qp? p qpn = some q → ∃ q', t.qp? p qpn = some q' ∧ q'.error = true)

/-- The Ethernet side of the block: requests served, and ports that follow their links. -/
def Obligations.EthernetServesAndFollows : Prop := RdmaRequestsAreServed ∧ EthernetPortsFollowTheirLinks
end

