-- ==== Sys2Proof/Laws/Maps.lean ====
section
/-! SUPPORT. Laws of the sparse maps and byte memories: a read after a write, and the canonical form that every write keeps. -/

namespace Sys2Proof.Machine

/-! ## Maps -/

@[simp] theorem mapGet?_nil {α : Type} (k : Nat) : mapGet? ([] : List (Nat × α)) k = none := rfl

theorem mapGet?_mapSet {α : Type} (m : List (Nat × α)) (k j : Nat) (a : α) :
    mapGet? (mapSet m k a) j = if j = k then some a else mapGet? m j := by
  induction m with
  | nil => simp [mapSet, mapGet?, eq_comm]
  | cons p m ih =>
    obtain ⟨i, b⟩ := p
    simp only [mapSet]
    split
    · simp only [mapGet?]; grind
    · split
      · simp only [mapGet?]; grind
      · simp only [mapGet?, ih]; grind

theorem mapGet?_mapErase {α : Type} (m : List (Nat × α)) (k j : Nat) :
    mapGet? (mapErase m k) j = if j = k then none else mapGet? m j := by
  induction m with
  | nil => simp [mapErase, mapGet?]
  | cons p m ih =>
    obtain ⟨i, b⟩ := p
    simp only [mapErase]
    split
    · rw [ih]; simp only [mapGet?]; grind
    · simp only [mapGet?, ih]; grind

theorem mapGet?_mapVals {α : Type} (f : Nat → α → α) (m : List (Nat × α)) (k : Nat) :
    mapGet? (mapVals f m) k = (mapGet? m k).map (f k) := by
  induction m with
  | nil => rfl
  | cons p m ih =>
    obtain ⟨i, b⟩ := p
    simp only [mapVals, List.map_cons, mapGet?] at ih ⊢
    split
    · subst_vars; rfl
    · exact ih

@[simp] theorem mapGet_mapSet_self {α : Type} (m : List (Nat × α)) (d a : α) (k : Nat) : mapGet (mapSet m k a) d k = a := by
  simp [mapGet, mapGet?_mapSet]

theorem mapGet_mapSet_of_ne {α : Type} (m : List (Nat × α)) (d a : α) {k j : Nat} (h : j ≠ k) :
    mapGet (mapSet m k a) d j = mapGet m d j := by
  simp [mapGet, mapGet?_mapSet, h]

/-- Every listed key is above `b`. -/
def KeysAbove {α : Type} (b : Nat) (m : List (Nat × α)) : Prop := ∀ p ∈ m, b < p.1

theorem keysRising_cons {α : Type} (j : Nat) (a : α) (m : List (Nat × α)) :
    keysRising ((j, a) :: m) = true ↔ KeysAbove j m ∧ keysRising m = true := by
  induction m generalizing j a with
  | nil => simp [keysRising, KeysAbove]
  | cons p m ih =>
    obtain ⟨k, b⟩ := p
    simp only [keysRising, Bool.and_eq_true, decide_eq_true_eq, ih, KeysAbove, List.mem_cons, forall_eq_or_imp]
    constructor
    · rintro ⟨h, h1, h2⟩
      exact ⟨⟨h, fun p hp => Nat.lt_trans h (h1 p hp)⟩, h1, h2⟩
    · rintro ⟨⟨h, _⟩, h1, h2⟩
      exact ⟨h, h1, h2⟩

theorem mem_mapSet {α : Type} {m : List (Nat × α)} {k : Nat} {a : α} {p : Nat × α} (h : p ∈ mapSet m k a) :
    p = (k, a) ∨ p ∈ m := by
  induction m with
  | nil => simpa [mapSet] using h
  | cons q m ih =>
    obtain ⟨j, b⟩ := q
    simp only [mapSet] at h
    split at h
    · simpa using h
    · split at h
      · rcases List.mem_cons.1 h with h | h
        · exact .inl h
        · exact .inr (List.mem_cons_of_mem _ h)
      · rcases List.mem_cons.1 h with h | h
        · exact .inr (by simp [h])
        · rcases ih h with h | h
          · exact .inl h
          · exact .inr (List.mem_cons_of_mem _ h)

theorem mem_of_mem_mapErase {α : Type} {m : List (Nat × α)} {k : Nat} {p : Nat × α} (h : p ∈ mapErase m k) : p ∈ m := by
  induction m with
  | nil => exact h
  | cons q m ih =>
    obtain ⟨j, b⟩ := q
    simp only [mapErase] at h
    split at h
    · exact List.mem_cons_of_mem _ (ih h)
    · rcases List.mem_cons.1 h with h | h
      · simp [h]
      · exact List.mem_cons_of_mem _ (ih h)

theorem keysRising_mapSet {α : Type} (m : List (Nat × α)) (k : Nat) (a : α) (h : keysRising m = true) :
    keysRising (mapSet m k a) = true := by
  induction m with
  | nil => rfl
  | cons q m ih =>
    obtain ⟨j, b⟩ := q
    obtain ⟨h1, h2⟩ := (keysRising_cons j b m).1 h
    simp only [mapSet]
    split
    · rename_i hk
      refine (keysRising_cons _ _ _).2 ⟨?_, h⟩
      intro p hp
      rcases List.mem_cons.1 hp with hp | hp
      · subst hp; exact hk
      · exact Nat.lt_trans hk (h1 p hp)
    · split
      · rename_i hj; subst hj; exact (keysRising_cons _ _ _).2 ⟨h1, h2⟩
      · refine (keysRising_cons _ _ _).2 ⟨?_, ih h2⟩
        intro p hp
        rcases mem_mapSet hp with hp | hp
        · subst hp; simp only; omega
        · exact h1 p hp

theorem keysRising_mapErase {α : Type} (m : List (Nat × α)) (k : Nat) (h : keysRising m = true) :
    keysRising (mapErase m k) = true := by
  induction m with
  | nil => rfl
  | cons q m ih =>
    obtain ⟨j, b⟩ := q
    obtain ⟨h1, h2⟩ := (keysRising_cons j b m).1 h
    simp only [mapErase]
    split
    · exact ih h2
    · exact (keysRising_cons _ _ _).2 ⟨fun p hp => h1 p (mem_of_mem_mapErase hp), ih h2⟩

theorem keysRising_filter {α : Type} (m : List (Nat × α)) (p : Nat × α → Bool) (h : keysRising m = true) :
    keysRising (m.filter p) = true := by
  induction m with
  | nil => rfl
  | cons q m ih =>
    obtain ⟨j, b⟩ := q
    obtain ⟨h1, h2⟩ := (keysRising_cons j b m).1 h
    simp only [List.filter_cons]
    split
    · exact (keysRising_cons _ _ _).2 ⟨fun x hx => h1 x (List.mem_filter.1 hx).1, ih h2⟩
    · exact ih h2

theorem keysRising_mapVals {α : Type} (f : Nat → α → α) (m : List (Nat × α)) : keysRising (mapVals f m) = keysRising m := by
  induction m with
  | nil => rfl
  | cons q m ih =>
    cases m with
    | nil => rfl
    | cons r m =>
      simp only [mapVals, List.map_cons, keysRising] at ih ⊢
      rw [ih]

/-! ## Byte memories -/

theorem Memory.wf_iff (m : Memory) : m.wf = true ↔ keysRising m = true ∧ ∀ c ∈ m, c.2 ≠ unlistedByte := by
  simp [Memory.wf]

@[simp] theorem Memory.wf_nil : Memory.wf [] = true := rfl

theorem Memory.wf_wrByte (m : Memory) (a : Nat) (b : Byte) (h : m.wf = true) : (m.wrByte a b).wf = true := by
  obtain ⟨h1, h2⟩ := (Memory.wf_iff m).1 h
  unfold Memory.wrByte
  split
  · exact (Memory.wf_iff _).2 ⟨keysRising_mapErase m a h1, fun c hc => h2 c (mem_of_mem_mapErase hc)⟩
  · refine (Memory.wf_iff _).2 ⟨keysRising_mapSet m a b h1, fun c hc => ?_⟩
    rcases mem_mapSet hc with hc | hc
    · subst hc; assumption
    · exact h2 c hc

theorem Memory.wf_wrBytes (m : Memory) (a : Nat) (bs : List Nat) (h : m.wf = true) : (m.wrBytes a bs).wf = true := by
  induction bs generalizing m a with
  | nil => exact h
  | cons b bs ih => exact ih _ _ (Memory.wf_wrByte m a _ h)

theorem Memory.wf_wrLE (m : Memory) (a n v : Nat) (h : m.wf = true) : (m.wrLE a n v).wf = true := Memory.wf_wrBytes m a _ h

theorem Memory.wf_wrZeros (m : Memory) (a n : Nat) (h : m.wf = true) : (m.wrZeros a n).wf = true := by
  obtain ⟨h1, h2⟩ := (Memory.wf_iff m).1 h
  exact (Memory.wf_iff _).2 ⟨keysRising_filter m _ h1, fun c hc => h2 c (List.mem_filter.1 hc).1⟩

/-- A read of the byte just written gives it; a read of any other byte gives what it gave before. -/
theorem Memory.rdByte_wrByte (m : Memory) (a i : Nat) (b : Byte) :
    (m.wrByte a b).rdByte i = if i = a then b else m.rdByte i := by
  unfold Memory.wrByte Memory.rdByte mapGet
  split
  · subst_vars; rw [mapGet?_mapErase]; split <;> simp
  · rw [mapGet?_mapSet]; split <;> simp

/-- A run of bytes written leaves every byte outside it. -/
theorem Memory.rdByte_wrBytes_outside (m : Memory) (a i : Nat) (bs : List Nat) (h : i < a ∨ a + bs.length ≤ i) :
    (m.wrBytes a bs).rdByte i = m.rdByte i := by
  induction bs generalizing m a with
  | nil => rfl
  | cons b bs ih =>
    simp only [List.length_cons] at h
    simp only [Memory.wrBytes]
    rw [ih _ _ (by omega), Memory.rdByte_wrByte, if_neg (by omega)]

/-- A run of bytes written reads back byte for byte. -/
theorem Memory.rdByte_wrBytes_inside (m : Memory) (a j : Nat) (bs : List Nat) (h : j < bs.length) :
    (m.wrBytes a bs).rdByte (a + j) = BitVec.ofNat 8 (nth bs 0 j) := by
  induction bs generalizing m a j with
  | nil => simp at h
  | cons b bs ih =>
    simp only [Memory.wrBytes]
    cases j with
    | zero => rw [Memory.rdByte_wrBytes_outside _ _ _ _ (by omega), Memory.rdByte_wrByte]; simp [nth]
    | succ j =>
      have := ih (m.wrByte a (BitVec.ofNat 8 b)) (a + 1) j (by simpa using h)
      rw [show a + (j + 1) = a + 1 + j by omega, this]
      simp [nth]

theorem Memory.rdBytes_length (m : Memory) (a n : Nat) : (m.rdBytes a n).length = n := by
  induction n generalizing a with
  | zero => rfl
  | succ n ih => simp [Memory.rdBytes, ih]

/-- What was written at a place reads back there. -/
theorem Memory.rdBytes_wrBytes (m : Memory) (a : Nat) (bs : List Nat) (h : ∀ b ∈ bs, b < 256) :
    (m.wrBytes a bs).rdBytes a bs.length = bs := by
  induction bs generalizing m a with
  | nil => rfl
  | cons b bs ih =>
    simp only [Memory.wrBytes, List.length_cons, Memory.rdBytes]
    rw [Memory.rdByte_wrBytes_outside _ _ _ _ (by omega), Memory.rdByte_wrByte, if_pos rfl,
      ih _ _ (fun c hc => h c (by simp [hc]))]
    have := h b (by simp)
    simp [BitVec.toNat_ofNat, Nat.mod_eq_of_lt this]

theorem leBytes_length (n v : Nat) : (leBytes n v).length = n := by
  induction n generalizing v with
  | zero => rfl
  | succ n ih => simp [leBytes, ih]

theorem leNat_leBytes (n v : Nat) : leNat (leBytes n v) = v % 256 ^ n := by
  induction n generalizing v with
  | zero => simp [leBytes, leNat, Nat.mod_one]
  | succ n ih =>
    simp only [leBytes, leNat, ih, Nat.mod_mod]
    rw [Nat.pow_succ, Nat.mul_comm (256 ^ n) 256, Nat.mod_mul]

end Sys2Proof.Machine
end

