-- ==== Sys2Proof/Laws/State.lean ====
section
/-! SUPPORT. What each named update of the state changes and leaves, one lemma a field, so that no proof unfolds an update. -/

namespace Sys2Proof.Machine

/-! ## State.wr -/

@[simp] theorem State.wr_pending (s : State) (f : Fld) (v : Nat) : (s.wr f v).pending = s.pending := rfl
@[simp] theorem State.wr_now (s : State) (f : Fld) (v : Nat) : (s.wr f v).now = s.now := rfl
@[simp] theorem State.wr_free (s : State) (f : Fld) (v : Nat) : (s.wr f v).free = s.free := rfl
@[simp] theorem State.wr_regs (s : State) (f : Fld) (v : Nat) : (s.wr f v).regs = mapSet s.regs f.key (v % 2 ^ f.w) := rfl
@[simp] theorem State.wr_wo1 (s : State) (f : Fld) (v : Nat) : (s.wr f v).wo1 = s.wo1 := rfl
@[simp] theorem State.wr_hbm (s : State) (f : Fld) (v : Nat) : (s.wr f v).hbm = s.hbm := rfl
@[simp] theorem State.wr_poison (s : State) (f : Fld) (v : Nat) : (s.wr f v).poison = s.poison := rfl
@[simp] theorem State.wr_ceRows (s : State) (f : Fld) (v : Nat) : (s.wr f v).ceRows = s.ceRows := rfl
@[simp] theorem State.wr_ueRows (s : State) (f : Fld) (v : Nat) : (s.wr f v).ueRows = s.ueRows := rfl
@[simp] theorem State.wr_hostMem (s : State) (f : Fld) (v : Nat) : (s.wr f v).hostMem = s.hostMem := rfl
@[simp] theorem State.wr_tw (s : State) (f : Fld) (v : Nat) : (s.wr f v).tw = s.tw := rfl
@[simp] theorem State.wr_tiles (s : State) (f : Fld) (v : Nat) : (s.wr f v).tiles = s.tiles := rfl
@[simp] theorem State.wr_configs (s : State) (f : Fld) (v : Nat) : (s.wr f v).configs = s.configs := rfl
@[simp] theorem State.wr_nextCfg (s : State) (f : Fld) (v : Nat) : (s.wr f v).nextCfg = s.nextCfg := rfl
@[simp] theorem State.wr_ctxs (s : State) (f : Fld) (v : Nat) : (s.wr f v).ctxs = s.ctxs := rfl
@[simp] theorem State.wr_fe (s : State) (f : Fld) (v : Nat) : (s.wr f v).fe = s.fe := rfl
@[simp] theorem State.wr_se (s : State) (f : Fld) (v : Nat) : (s.wr f v).se = s.se := rfl
@[simp] theorem State.wr_sc (s : State) (f : Fld) (v : Nat) : (s.wr f v).sc = s.sc := rfl
@[simp] theorem State.wr_link (s : State) (f : Fld) (v : Nat) : (s.wr f v).link = s.link := rfl
@[simp] theorem State.wr_eth (s : State) (f : Fld) (v : Nat) : (s.wr f v).eth = s.eth := rfl
@[simp] theorem State.wr_dom (s : State) (f : Fld) (v : Nat) : (s.wr f v).dom = s.dom := rfl
@[simp] theorem State.wr_qps (s : State) (f : Fld) (v : Nat) : (s.wr f v).qps = s.qps := rfl
@[simp] theorem State.wr_ev (s : State) (f : Fld) (v : Nat) : (s.wr f v).ev = s.ev := rfl
@[simp] theorem State.wr_cap (s : State) (f : Fld) (v : Nat) : (s.wr f v).cap = s.cap := rfl
@[simp] theorem State.wr_pwr (s : State) (f : Fld) (v : Nat) : (s.wr f v).pwr = s.pwr := rfl
@[simp] theorem State.wr_pins (s : State) (f : Fld) (v : Nat) : (s.wr f v).pins = s.pins := rfl
@[simp] theorem State.wr_fit (s : State) (f : Fld) (v : Nat) : (s.wr f v).fit = s.fit := rfl
@[simp] theorem State.wr_bootSeq (s : State) (f : Fld) (v : Nat) : (s.wr f v).bootSeq = s.bootSeq := rfl
@[simp] theorem State.wr_fails (s : State) (f : Fld) (v : Nat) : (s.wr f v).fails = s.fails := rfl
@[simp] theorem State.wr_failsKept (s : State) (f : Fld) (v : Nat) : (s.wr f v).failsKept = s.failsKept := rfl
@[simp] theorem State.wr_box (s : State) (f : Fld) (v : Nat) : (s.wr f v).box = s.box := rfl
@[simp] theorem State.wr_stopped (s : State) (f : Fld) (v : Nat) : (s.wr f v).stopped = s.stopped := rfl
@[simp] theorem State.wr_msix (s : State) (f : Fld) (v : Nat) : (s.wr f v).msix = s.msix := rfl
@[simp] theorem State.wr_msixPend (s : State) (f : Fld) (v : Nat) : (s.wr f v).msixPend = s.msixPend := rfl
@[simp] theorem State.wr_sent (s : State) (f : Fld) (v : Nat) : (s.wr f v).sent = s.sent := rfl

/-! ## State.setCtx -/

@[simp] theorem State.setCtx_pending (s : State) (c : Nat) (x : Ctx) : (s.setCtx c x).pending = s.pending := rfl
@[simp] theorem State.setCtx_now (s : State) (c : Nat) (x : Ctx) : (s.setCtx c x).now = s.now := rfl
@[simp] theorem State.setCtx_free (s : State) (c : Nat) (x : Ctx) : (s.setCtx c x).free = s.free := rfl
@[simp] theorem State.setCtx_regs (s : State) (c : Nat) (x : Ctx) : (s.setCtx c x).regs = s.regs := rfl
@[simp] theorem State.setCtx_wo1 (s : State) (c : Nat) (x : Ctx) : (s.setCtx c x).wo1 = s.wo1 := rfl
@[simp] theorem State.setCtx_hbm (s : State) (c : Nat) (x : Ctx) : (s.setCtx c x).hbm = s.hbm := rfl
@[simp] theorem State.setCtx_poison (s : State) (c : Nat) (x : Ctx) : (s.setCtx c x).poison = s.poison := rfl
@[simp] theorem State.setCtx_ceRows (s : State) (c : Nat) (x : Ctx) : (s.setCtx c x).ceRows = s.ceRows := rfl
@[simp] theorem State.setCtx_ueRows (s : State) (c : Nat) (x : Ctx) : (s.setCtx c x).ueRows = s.ueRows := rfl
@[simp] theorem State.setCtx_hostMem (s : State) (c : Nat) (x : Ctx) : (s.setCtx c x).hostMem = s.hostMem := rfl
@[simp] theorem State.setCtx_tw (s : State) (c : Nat) (x : Ctx) : (s.setCtx c x).tw = s.tw := rfl
@[simp] theorem State.setCtx_tiles (s : State) (c : Nat) (x : Ctx) : (s.setCtx c x).tiles = s.tiles := rfl
@[simp] theorem State.setCtx_configs (s : State) (c : Nat) (x : Ctx) : (s.setCtx c x).configs = s.configs := rfl
@[simp] theorem State.setCtx_nextCfg (s : State) (c : Nat) (x : Ctx) : (s.setCtx c x).nextCfg = s.nextCfg := rfl
@[simp] theorem State.setCtx_ctxs (s : State) (c : Nat) (x : Ctx) : (s.setCtx c x).ctxs = mapSet s.ctxs c x := rfl
@[simp] theorem State.setCtx_fe (s : State) (c : Nat) (x : Ctx) : (s.setCtx c x).fe = s.fe := rfl
@[simp] theorem State.setCtx_se (s : State) (c : Nat) (x : Ctx) : (s.setCtx c x).se = s.se := rfl
@[simp] theorem State.setCtx_sc (s : State) (c : Nat) (x : Ctx) : (s.setCtx c x).sc = s.sc := rfl
@[simp] theorem State.setCtx_link (s : State) (c : Nat) (x : Ctx) : (s.setCtx c x).link = s.link := rfl
@[simp] theorem State.setCtx_eth (s : State) (c : Nat) (x : Ctx) : (s.setCtx c x).eth = s.eth := rfl
@[simp] theorem State.setCtx_dom (s : State) (c : Nat) (x : Ctx) : (s.setCtx c x).dom = s.dom := rfl
@[simp] theorem State.setCtx_qps (s : State) (c : Nat) (x : Ctx) : (s.setCtx c x).qps = s.qps := rfl
@[simp] theorem State.setCtx_ev (s : State) (c : Nat) (x : Ctx) : (s.setCtx c x).ev = s.ev := rfl
@[simp] theorem State.setCtx_cap (s : State) (c : Nat) (x : Ctx) : (s.setCtx c x).cap = s.cap := rfl
@[simp] theorem State.setCtx_pwr (s : State) (c : Nat) (x : Ctx) : (s.setCtx c x).pwr = s.pwr := rfl
@[simp] theorem State.setCtx_pins (s : State) (c : Nat) (x : Ctx) : (s.setCtx c x).pins = s.pins := rfl
@[simp] theorem State.setCtx_fit (s : State) (c : Nat) (x : Ctx) : (s.setCtx c x).fit = s.fit := rfl
@[simp] theorem State.setCtx_bootSeq (s : State) (c : Nat) (x : Ctx) : (s.setCtx c x).bootSeq = s.bootSeq := rfl
@[simp] theorem State.setCtx_fails (s : State) (c : Nat) (x : Ctx) : (s.setCtx c x).fails = s.fails := rfl
@[simp] theorem State.setCtx_failsKept (s : State) (c : Nat) (x : Ctx) : (s.setCtx c x).failsKept = s.failsKept := rfl
@[simp] theorem State.setCtx_box (s : State) (c : Nat) (x : Ctx) : (s.setCtx c x).box = s.box := rfl
@[simp] theorem State.setCtx_stopped (s : State) (c : Nat) (x : Ctx) : (s.setCtx c x).stopped = s.stopped := rfl
@[simp] theorem State.setCtx_msix (s : State) (c : Nat) (x : Ctx) : (s.setCtx c x).msix = s.msix := rfl
@[simp] theorem State.setCtx_msixPend (s : State) (c : Nat) (x : Ctx) : (s.setCtx c x).msixPend = s.msixPend := rfl
@[simp] theorem State.setCtx_sent (s : State) (c : Nat) (x : Ctx) : (s.setCtx c x).sent = s.sent := rfl

/-! ## State.setTile -/

@[simp] theorem State.setTile_pending (s : State) (t : Nat) (x : Tile) : (s.setTile t x).pending = s.pending := rfl
@[simp] theorem State.setTile_now (s : State) (t : Nat) (x : Tile) : (s.setTile t x).now = s.now := rfl
@[simp] theorem State.setTile_free (s : State) (t : Nat) (x : Tile) : (s.setTile t x).free = s.free := rfl
@[simp] theorem State.setTile_regs (s : State) (t : Nat) (x : Tile) : (s.setTile t x).regs = s.regs := rfl
@[simp] theorem State.setTile_wo1 (s : State) (t : Nat) (x : Tile) : (s.setTile t x).wo1 = s.wo1 := rfl
@[simp] theorem State.setTile_hbm (s : State) (t : Nat) (x : Tile) : (s.setTile t x).hbm = s.hbm := rfl
@[simp] theorem State.setTile_poison (s : State) (t : Nat) (x : Tile) : (s.setTile t x).poison = s.poison := rfl
@[simp] theorem State.setTile_ceRows (s : State) (t : Nat) (x : Tile) : (s.setTile t x).ceRows = s.ceRows := rfl
@[simp] theorem State.setTile_ueRows (s : State) (t : Nat) (x : Tile) : (s.setTile t x).ueRows = s.ueRows := rfl
@[simp] theorem State.setTile_hostMem (s : State) (t : Nat) (x : Tile) : (s.setTile t x).hostMem = s.hostMem := rfl
@[simp] theorem State.setTile_tw (s : State) (t : Nat) (x : Tile) : (s.setTile t x).tw = s.tw := rfl
@[simp] theorem State.setTile_tiles (s : State) (t : Nat) (x : Tile) : (s.setTile t x).tiles = mapSet s.tiles t x := rfl
@[simp] theorem State.setTile_configs (s : State) (t : Nat) (x : Tile) : (s.setTile t x).configs = s.configs := rfl
@[simp] theorem State.setTile_nextCfg (s : State) (t : Nat) (x : Tile) : (s.setTile t x).nextCfg = s.nextCfg := rfl
@[simp] theorem State.setTile_ctxs (s : State) (t : Nat) (x : Tile) : (s.setTile t x).ctxs = s.ctxs := rfl
@[simp] theorem State.setTile_fe (s : State) (t : Nat) (x : Tile) : (s.setTile t x).fe = s.fe := rfl
@[simp] theorem State.setTile_se (s : State) (t : Nat) (x : Tile) : (s.setTile t x).se = s.se := rfl
@[simp] theorem State.setTile_sc (s : State) (t : Nat) (x : Tile) : (s.setTile t x).sc = s.sc := rfl
@[simp] theorem State.setTile_link (s : State) (t : Nat) (x : Tile) : (s.setTile t x).link = s.link := rfl
@[simp] theorem State.setTile_eth (s : State) (t : Nat) (x : Tile) : (s.setTile t x).eth = s.eth := rfl
@[simp] theorem State.setTile_dom (s : State) (t : Nat) (x : Tile) : (s.setTile t x).dom = s.dom := rfl
@[simp] theorem State.setTile_qps (s : State) (t : Nat) (x : Tile) : (s.setTile t x).qps = s.qps := rfl
@[simp] theorem State.setTile_ev (s : State) (t : Nat) (x : Tile) : (s.setTile t x).ev = s.ev := rfl
@[simp] theorem State.setTile_cap (s : State) (t : Nat) (x : Tile) : (s.setTile t x).cap = s.cap := rfl
@[simp] theorem State.setTile_pwr (s : State) (t : Nat) (x : Tile) : (s.setTile t x).pwr = s.pwr := rfl
@[simp] theorem State.setTile_pins (s : State) (t : Nat) (x : Tile) : (s.setTile t x).pins = s.pins := rfl
@[simp] theorem State.setTile_fit (s : State) (t : Nat) (x : Tile) : (s.setTile t x).fit = s.fit := rfl
@[simp] theorem State.setTile_bootSeq (s : State) (t : Nat) (x : Tile) : (s.setTile t x).bootSeq = s.bootSeq := rfl
@[simp] theorem State.setTile_fails (s : State) (t : Nat) (x : Tile) : (s.setTile t x).fails = s.fails := rfl
@[simp] theorem State.setTile_failsKept (s : State) (t : Nat) (x : Tile) : (s.setTile t x).failsKept = s.failsKept := rfl
@[simp] theorem State.setTile_box (s : State) (t : Nat) (x : Tile) : (s.setTile t x).box = s.box := rfl
@[simp] theorem State.setTile_stopped (s : State) (t : Nat) (x : Tile) : (s.setTile t x).stopped = s.stopped := rfl
@[simp] theorem State.setTile_msix (s : State) (t : Nat) (x : Tile) : (s.setTile t x).msix = s.msix := rfl
@[simp] theorem State.setTile_msixPend (s : State) (t : Nat) (x : Tile) : (s.setTile t x).msixPend = s.msixPend := rfl
@[simp] theorem State.setTile_sent (s : State) (t : Nat) (x : Tile) : (s.setTile t x).sent = s.sent := rfl

/-! ## State.takeFree -/

@[simp] theorem State.takeFree_pending (s : State) : (s.takeFree).pending = s.pending := rfl
@[simp] theorem State.takeFree_now (s : State) : (s.takeFree).now = s.now := rfl
@[simp] theorem State.takeFree_free (s : State) : (s.takeFree).free = s.free + 1 := rfl
@[simp] theorem State.takeFree_regs (s : State) : (s.takeFree).regs = s.regs := rfl
@[simp] theorem State.takeFree_wo1 (s : State) : (s.takeFree).wo1 = s.wo1 := rfl
@[simp] theorem State.takeFree_hbm (s : State) : (s.takeFree).hbm = s.hbm := rfl
@[simp] theorem State.takeFree_poison (s : State) : (s.takeFree).poison = s.poison := rfl
@[simp] theorem State.takeFree_ceRows (s : State) : (s.takeFree).ceRows = s.ceRows := rfl
@[simp] theorem State.takeFree_ueRows (s : State) : (s.takeFree).ueRows = s.ueRows := rfl
@[simp] theorem State.takeFree_hostMem (s : State) : (s.takeFree).hostMem = s.hostMem := rfl
@[simp] theorem State.takeFree_tw (s : State) : (s.takeFree).tw = s.tw := rfl
@[simp] theorem State.takeFree_tiles (s : State) : (s.takeFree).tiles = s.tiles := rfl
@[simp] theorem State.takeFree_configs (s : State) : (s.takeFree).configs = s.configs := rfl
@[simp] theorem State.takeFree_nextCfg (s : State) : (s.takeFree).nextCfg = s.nextCfg := rfl
@[simp] theorem State.takeFree_ctxs (s : State) : (s.takeFree).ctxs = s.ctxs := rfl
@[simp] theorem State.takeFree_fe (s : State) : (s.takeFree).fe = s.fe := rfl
@[simp] theorem State.takeFree_se (s : State) : (s.takeFree).se = s.se := rfl
@[simp] theorem State.takeFree_sc (s : State) : (s.takeFree).sc = s.sc := rfl
@[simp] theorem State.takeFree_link (s : State) : (s.takeFree).link = s.link := rfl
@[simp] theorem State.takeFree_eth (s : State) : (s.takeFree).eth = s.eth := rfl
@[simp] theorem State.takeFree_dom (s : State) : (s.takeFree).dom = s.dom := rfl
@[simp] theorem State.takeFree_qps (s : State) : (s.takeFree).qps = s.qps := rfl
@[simp] theorem State.takeFree_ev (s : State) : (s.takeFree).ev = s.ev := rfl
@[simp] theorem State.takeFree_cap (s : State) : (s.takeFree).cap = s.cap := rfl
@[simp] theorem State.takeFree_pwr (s : State) : (s.takeFree).pwr = s.pwr := rfl
@[simp] theorem State.takeFree_pins (s : State) : (s.takeFree).pins = s.pins := rfl
@[simp] theorem State.takeFree_fit (s : State) : (s.takeFree).fit = s.fit := rfl
@[simp] theorem State.takeFree_bootSeq (s : State) : (s.takeFree).bootSeq = s.bootSeq := rfl
@[simp] theorem State.takeFree_fails (s : State) : (s.takeFree).fails = s.fails := rfl
@[simp] theorem State.takeFree_failsKept (s : State) : (s.takeFree).failsKept = s.failsKept := rfl
@[simp] theorem State.takeFree_box (s : State) : (s.takeFree).box = s.box := rfl
@[simp] theorem State.takeFree_stopped (s : State) : (s.takeFree).stopped = s.stopped := rfl
@[simp] theorem State.takeFree_msix (s : State) : (s.takeFree).msix = s.msix := rfl
@[simp] theorem State.takeFree_msixPend (s : State) : (s.takeFree).msixPend = s.msixPend := rfl
@[simp] theorem State.takeFree_sent (s : State) : (s.takeFree).sent = s.sent := rfl

/-! ## State.send -/

@[simp] theorem State.send_pending (s : State) (m : Sent) : (s.send m).pending = s.pending := rfl
@[simp] theorem State.send_now (s : State) (m : Sent) : (s.send m).now = s.now := rfl
@[simp] theorem State.send_free (s : State) (m : Sent) : (s.send m).free = s.free := rfl
@[simp] theorem State.send_regs (s : State) (m : Sent) : (s.send m).regs = s.regs := rfl
@[simp] theorem State.send_wo1 (s : State) (m : Sent) : (s.send m).wo1 = s.wo1 := rfl
@[simp] theorem State.send_hbm (s : State) (m : Sent) : (s.send m).hbm = s.hbm := rfl
@[simp] theorem State.send_poison (s : State) (m : Sent) : (s.send m).poison = s.poison := rfl
@[simp] theorem State.send_ceRows (s : State) (m : Sent) : (s.send m).ceRows = s.ceRows := rfl
@[simp] theorem State.send_ueRows (s : State) (m : Sent) : (s.send m).ueRows = s.ueRows := rfl
@[simp] theorem State.send_hostMem (s : State) (m : Sent) : (s.send m).hostMem = s.hostMem := rfl
@[simp] theorem State.send_tw (s : State) (m : Sent) : (s.send m).tw = s.tw := rfl
@[simp] theorem State.send_tiles (s : State) (m : Sent) : (s.send m).tiles = s.tiles := rfl
@[simp] theorem State.send_configs (s : State) (m : Sent) : (s.send m).configs = s.configs := rfl
@[simp] theorem State.send_nextCfg (s : State) (m : Sent) : (s.send m).nextCfg = s.nextCfg := rfl
@[simp] theorem State.send_ctxs (s : State) (m : Sent) : (s.send m).ctxs = s.ctxs := rfl
@[simp] theorem State.send_fe (s : State) (m : Sent) : (s.send m).fe = s.fe := rfl
@[simp] theorem State.send_se (s : State) (m : Sent) : (s.send m).se = s.se := rfl
@[simp] theorem State.send_sc (s : State) (m : Sent) : (s.send m).sc = s.sc := rfl
@[simp] theorem State.send_link (s : State) (m : Sent) : (s.send m).link = s.link := rfl
@[simp] theorem State.send_eth (s : State) (m : Sent) : (s.send m).eth = s.eth := rfl
@[simp] theorem State.send_dom (s : State) (m : Sent) : (s.send m).dom = s.dom := rfl
@[simp] theorem State.send_qps (s : State) (m : Sent) : (s.send m).qps = s.qps := rfl
@[simp] theorem State.send_ev (s : State) (m : Sent) : (s.send m).ev = s.ev := rfl
@[simp] theorem State.send_cap (s : State) (m : Sent) : (s.send m).cap = s.cap := rfl
@[simp] theorem State.send_pwr (s : State) (m : Sent) : (s.send m).pwr = s.pwr := rfl
@[simp] theorem State.send_pins (s : State) (m : Sent) : (s.send m).pins = s.pins := rfl
@[simp] theorem State.send_fit (s : State) (m : Sent) : (s.send m).fit = s.fit := rfl
@[simp] theorem State.send_bootSeq (s : State) (m : Sent) : (s.send m).bootSeq = s.bootSeq := rfl
@[simp] theorem State.send_fails (s : State) (m : Sent) : (s.send m).fails = s.fails := rfl
@[simp] theorem State.send_failsKept (s : State) (m : Sent) : (s.send m).failsKept = s.failsKept := rfl
@[simp] theorem State.send_box (s : State) (m : Sent) : (s.send m).box = s.box := rfl
@[simp] theorem State.send_stopped (s : State) (m : Sent) : (s.send m).stopped = s.stopped := rfl
@[simp] theorem State.send_msix (s : State) (m : Sent) : (s.send m).msix = s.msix := rfl
@[simp] theorem State.send_msixPend (s : State) (m : Sent) : (s.send m).msixPend = s.msixPend := rfl
@[simp] theorem State.send_sent (s : State) (m : Sent) : (s.send m).sent = s.sent ++ [m] := rfl

/-! ## State.setBufs -/

@[simp] theorem State.setBufs_pending (s : State) (bs : List Buf) : (s.setBufs bs).pending = s.pending := rfl
@[simp] theorem State.setBufs_now (s : State) (bs : List Buf) : (s.setBufs bs).now = s.now := rfl
@[simp] theorem State.setBufs_free (s : State) (bs : List Buf) : (s.setBufs bs).free = s.free := rfl
@[simp] theorem State.setBufs_regs (s : State) (bs : List Buf) : (s.setBufs bs).regs = s.regs := rfl
@[simp] theorem State.setBufs_wo1 (s : State) (bs : List Buf) : (s.setBufs bs).wo1 = s.wo1 := rfl
@[simp] theorem State.setBufs_hbm (s : State) (bs : List Buf) : (s.setBufs bs).hbm = s.hbm := rfl
@[simp] theorem State.setBufs_poison (s : State) (bs : List Buf) : (s.setBufs bs).poison = s.poison := rfl
@[simp] theorem State.setBufs_ceRows (s : State) (bs : List Buf) : (s.setBufs bs).ceRows = s.ceRows := rfl
@[simp] theorem State.setBufs_ueRows (s : State) (bs : List Buf) : (s.setBufs bs).ueRows = s.ueRows := rfl
@[simp] theorem State.setBufs_hostMem (s : State) (bs : List Buf) : (s.setBufs bs).hostMem = s.hostMem := rfl
@[simp] theorem State.setBufs_tw (s : State) (bs : List Buf) : (s.setBufs bs).tw = s.tw := rfl
@[simp] theorem State.setBufs_tiles (s : State) (bs : List Buf) : (s.setBufs bs).tiles = s.tiles := rfl
@[simp] theorem State.setBufs_configs (s : State) (bs : List Buf) : (s.setBufs bs).configs = s.configs := rfl
@[simp] theorem State.setBufs_nextCfg (s : State) (bs : List Buf) : (s.setBufs bs).nextCfg = s.nextCfg := rfl
@[simp] theorem State.setBufs_ctxs (s : State) (bs : List Buf) : (s.setBufs bs).ctxs = s.ctxs := rfl
@[simp] theorem State.setBufs_fe (s : State) (bs : List Buf) : (s.setBufs bs).fe = { s.fe with bufs := bs } := rfl
@[simp] theorem State.setBufs_se (s : State) (bs : List Buf) : (s.setBufs bs).se = s.se := rfl
@[simp] theorem State.setBufs_sc (s : State) (bs : List Buf) : (s.setBufs bs).sc = s.sc := rfl
@[simp] theorem State.setBufs_link (s : State) (bs : List Buf) : (s.setBufs bs).link = s.link := rfl
@[simp] theorem State.setBufs_eth (s : State) (bs : List Buf) : (s.setBufs bs).eth = s.eth := rfl
@[simp] theorem State.setBufs_dom (s : State) (bs : List Buf) : (s.setBufs bs).dom = s.dom := rfl
@[simp] theorem State.setBufs_qps (s : State) (bs : List Buf) : (s.setBufs bs).qps = s.qps := rfl
@[simp] theorem State.setBufs_ev (s : State) (bs : List Buf) : (s.setBufs bs).ev = s.ev := rfl
@[simp] theorem State.setBufs_cap (s : State) (bs : List Buf) : (s.setBufs bs).cap = s.cap := rfl
@[simp] theorem State.setBufs_pwr (s : State) (bs : List Buf) : (s.setBufs bs).pwr = s.pwr := rfl
@[simp] theorem State.setBufs_pins (s : State) (bs : List Buf) : (s.setBufs bs).pins = s.pins := rfl
@[simp] theorem State.setBufs_fit (s : State) (bs : List Buf) : (s.setBufs bs).fit = s.fit := rfl
@[simp] theorem State.setBufs_bootSeq (s : State) (bs : List Buf) : (s.setBufs bs).bootSeq = s.bootSeq := rfl
@[simp] theorem State.setBufs_fails (s : State) (bs : List Buf) : (s.setBufs bs).fails = s.fails := rfl
@[simp] theorem State.setBufs_failsKept (s : State) (bs : List Buf) : (s.setBufs bs).failsKept = s.failsKept := rfl
@[simp] theorem State.setBufs_box (s : State) (bs : List Buf) : (s.setBufs bs).box = s.box := rfl
@[simp] theorem State.setBufs_stopped (s : State) (bs : List Buf) : (s.setBufs bs).stopped = s.stopped := rfl
@[simp] theorem State.setBufs_msix (s : State) (bs : List Buf) : (s.setBufs bs).msix = s.msix := rfl
@[simp] theorem State.setBufs_msixPend (s : State) (bs : List Buf) : (s.setBufs bs).msixPend = s.msixPend := rfl
@[simp] theorem State.setBufs_sent (s : State) (bs : List Buf) : (s.setBufs bs).sent = s.sent := rfl

/-! ## State.tick -/

/-- What an IDLE flit can change. -/
theorem State.emit_only (s : State) (p : Nat) (h : Hdr) (seq ack : Nat) (payload : List Nat) :
    ∃ l se, s.emit p h seq ack payload = { s with link := l, sent := se } := ⟨_, _, rfl⟩

theorem State.idleFlits_only (s : State) : ∃ l se, s.idleFlits = { s with link := l, sent := se } := by
  unfold State.idleFlits
  split
  · exact ⟨s.link, s.sent, rfl⟩
  · generalize List.range 18 = ps
    induction ps generalizing s with
    | nil => exact ⟨s.link, s.sent, rfl⟩
    | cons p ps ih =>
      rw [List.foldl_cons]
      split
      · obtain ⟨l, se, h⟩ := State.emit_only s p (Hdr.bare Flit.IDLE) 0 (s.rxAck p) []
        rw [h]
        obtain ⟨l', se', h'⟩ := ih { s with link := l, sent := se } (by assumption)
        exact ⟨l', se', h'⟩
      · exact ih s (by assumption)

/-- What a tick can change: the time base, the pauses of ops on held islands, the idle traffic of the link ports, the time an
alarm was kept back. -/
theorem State.tick_only (s : State) :
    ∃ r f l se, s.tick = { s with now := s.now + 1, regs := r, fe := f, link := l, sent := se } := by
  obtain ⟨l, se, h⟩ := State.idleFlits_only { s.pauseHeld with now := s.now + 1 }
  unfold State.tick
  rw [h]
  unfold State.throttle
  split
  · exact ⟨_, _, l, se, rfl⟩
  · exact ⟨s.regs, _, l, se, rfl⟩

@[simp] theorem State.tick_now (s : State) : s.tick.now = s.now + 1 := by
  obtain ⟨_, _, _, _, h⟩ := State.tick_only s; rw [h]
@[simp] theorem State.tick_pending (s : State) : s.tick.pending = s.pending := by
  obtain ⟨_, _, _, _, h⟩ := State.tick_only s; rw [h]
@[simp] theorem State.tick_free (s : State) : s.tick.free = s.free := by
  obtain ⟨_, _, _, _, h⟩ := State.tick_only s; rw [h]
@[simp] theorem State.tick_wo1 (s : State) : s.tick.wo1 = s.wo1 := by
  obtain ⟨_, _, _, _, h⟩ := State.tick_only s; rw [h]
@[simp] theorem State.tick_hbm (s : State) : s.tick.hbm = s.hbm := by
  obtain ⟨_, _, _, _, h⟩ := State.tick_only s; rw [h]
@[simp] theorem State.tick_poison (s : State) : s.tick.poison = s.poison := by
  obtain ⟨_, _, _, _, h⟩ := State.tick_only s; rw [h]
@[simp] theorem State.tick_ceRows (s : State) : s.tick.ceRows = s.ceRows := by
  obtain ⟨_, _, _, _, h⟩ := State.tick_only s; rw [h]
@[simp] theorem State.tick_ueRows (s : State) : s.tick.ueRows = s.ueRows := by
  obtain ⟨_, _, _, _, h⟩ := State.tick_only s; rw [h]
@[simp] theorem State.tick_hostMem (s : State) : s.tick.hostMem = s.hostMem := by
  obtain ⟨_, _, _, _, h⟩ := State.tick_only s; rw [h]
@[simp] theorem State.tick_tw (s : State) : s.tick.tw = s.tw := by
  obtain ⟨_, _, _, _, h⟩ := State.tick_only s; rw [h]
@[simp] theorem State.tick_tiles (s : State) : s.tick.tiles = s.tiles := by
  obtain ⟨_, _, _, _, h⟩ := State.tick_only s; rw [h]
@[simp] theorem State.tick_configs (s : State) : s.tick.configs = s.configs := by
  obtain ⟨_, _, _, _, h⟩ := State.tick_only s; rw [h]
@[simp] theorem State.tick_nextCfg (s : State) : s.tick.nextCfg = s.nextCfg := by
  obtain ⟨_, _, _, _, h⟩ := State.tick_only s; rw [h]
@[simp] theorem State.tick_ctxs (s : State) : s.tick.ctxs = s.ctxs := by
  obtain ⟨_, _, _, _, h⟩ := State.tick_only s; rw [h]
@[simp] theorem State.tick_se (s : State) : s.tick.se = s.se := by
  obtain ⟨_, _, _, _, h⟩ := State.tick_only s; rw [h]
@[simp] theorem State.tick_sc (s : State) : s.tick.sc = s.sc := by
  obtain ⟨_, _, _, _, h⟩ := State.tick_only s; rw [h]
@[simp] theorem State.tick_eth (s : State) : s.tick.eth = s.eth := by
  obtain ⟨_, _, _, _, h⟩ := State.tick_only s; rw [h]
@[simp] theorem State.tick_dom (s : State) : s.tick.dom = s.dom := by
  obtain ⟨_, _, _, _, h⟩ := State.tick_only s; rw [h]
@[simp] theorem State.tick_qps (s : State) : s.tick.qps = s.qps := by
  obtain ⟨_, _, _, _, h⟩ := State.tick_only s; rw [h]
@[simp] theorem State.tick_ev (s : State) : s.tick.ev = s.ev := by
  obtain ⟨_, _, _, _, h⟩ := State.tick_only s; rw [h]
@[simp] theorem State.tick_cap (s : State) : s.tick.cap = s.cap := by
  obtain ⟨_, _, _, _, h⟩ := State.tick_only s; rw [h]
@[simp] theorem State.tick_pwr (s : State) : s.tick.pwr = s.pwr := by
  obtain ⟨_, _, _, _, h⟩ := State.tick_only s; rw [h]
@[simp] theorem State.tick_pins (s : State) : s.tick.pins = s.pins := by
  obtain ⟨_, _, _, _, h⟩ := State.tick_only s; rw [h]
@[simp] theorem State.tick_fit (s : State) : s.tick.fit = s.fit := by
  obtain ⟨_, _, _, _, h⟩ := State.tick_only s; rw [h]
@[simp] theorem State.tick_bootSeq (s : State) : s.tick.bootSeq = s.bootSeq := by
  obtain ⟨_, _, _, _, h⟩ := State.tick_only s; rw [h]
@[simp] theorem State.tick_fails (s : State) : s.tick.fails = s.fails := by
  obtain ⟨_, _, _, _, h⟩ := State.tick_only s; rw [h]
@[simp] theorem State.tick_failsKept (s : State) : s.tick.failsKept = s.failsKept := by
  obtain ⟨_, _, _, _, h⟩ := State.tick_only s; rw [h]
@[simp] theorem State.tick_box (s : State) : s.tick.box = s.box := by
  obtain ⟨_, _, _, _, h⟩ := State.tick_only s; rw [h]
@[simp] theorem State.tick_stopped (s : State) : s.tick.stopped = s.stopped := by
  obtain ⟨_, _, _, _, h⟩ := State.tick_only s; rw [h]
@[simp] theorem State.tick_msix (s : State) : s.tick.msix = s.msix := by
  obtain ⟨_, _, _, _, h⟩ := State.tick_only s; rw [h]
@[simp] theorem State.tick_msixPend (s : State) : s.tick.msixPend = s.msixPend := by
  obtain ⟨_, _, _, _, h⟩ := State.tick_only s; rw [h]

/-! ## State.setFe -/

@[simp] theorem State.setFe_pending (s : State) (f : FrontEnd → FrontEnd) : (s.setFe f).pending = s.pending := rfl
@[simp] theorem State.setFe_now (s : State) (f : FrontEnd → FrontEnd) : (s.setFe f).now = s.now := rfl
@[simp] theorem State.setFe_free (s : State) (f : FrontEnd → FrontEnd) : (s.setFe f).free = s.free := rfl
@[simp] theorem State.setFe_regs (s : State) (f : FrontEnd → FrontEnd) : (s.setFe f).regs = s.regs := rfl
@[simp] theorem State.setFe_wo1 (s : State) (f : FrontEnd → FrontEnd) : (s.setFe f).wo1 = s.wo1 := rfl
@[simp] theorem State.setFe_hbm (s : State) (f : FrontEnd → FrontEnd) : (s.setFe f).hbm = s.hbm := rfl
@[simp] theorem State.setFe_poison (s : State) (f : FrontEnd → FrontEnd) : (s.setFe f).poison = s.poison := rfl
@[simp] theorem State.setFe_ceRows (s : State) (f : FrontEnd → FrontEnd) : (s.setFe f).ceRows = s.ceRows := rfl
@[simp] theorem State.setFe_ueRows (s : State) (f : FrontEnd → FrontEnd) : (s.setFe f).ueRows = s.ueRows := rfl
@[simp] theorem State.setFe_hostMem (s : State) (f : FrontEnd → FrontEnd) : (s.setFe f).hostMem = s.hostMem := rfl
@[simp] theorem State.setFe_tw (s : State) (f : FrontEnd → FrontEnd) : (s.setFe f).tw = s.tw := rfl
@[simp] theorem State.setFe_tiles (s : State) (f : FrontEnd → FrontEnd) : (s.setFe f).tiles = s.tiles := rfl
@[simp] theorem State.setFe_configs (s : State) (f : FrontEnd → FrontEnd) : (s.setFe f).configs = s.configs := rfl
@[simp] theorem State.setFe_nextCfg (s : State) (f : FrontEnd → FrontEnd) : (s.setFe f).nextCfg = s.nextCfg := rfl
@[simp] theorem State.setFe_ctxs (s : State) (f : FrontEnd → FrontEnd) : (s.setFe f).ctxs = s.ctxs := rfl
@[simp] theorem State.setFe_fe (s : State) (f : FrontEnd → FrontEnd) : (s.setFe f).fe = f s.fe := rfl
@[simp] theorem State.setFe_se (s : State) (f : FrontEnd → FrontEnd) : (s.setFe f).se = s.se := rfl
@[simp] theorem State.setFe_sc (s : State) (f : FrontEnd → FrontEnd) : (s.setFe f).sc = s.sc := rfl
@[simp] theorem State.setFe_link (s : State) (f : FrontEnd → FrontEnd) : (s.setFe f).link = s.link := rfl
@[simp] theorem State.setFe_eth (s : State) (f : FrontEnd → FrontEnd) : (s.setFe f).eth = s.eth := rfl
@[simp] theorem State.setFe_dom (s : State) (f : FrontEnd → FrontEnd) : (s.setFe f).dom = s.dom := rfl
@[simp] theorem State.setFe_qps (s : State) (f : FrontEnd → FrontEnd) : (s.setFe f).qps = s.qps := rfl
@[simp] theorem State.setFe_ev (s : State) (f : FrontEnd → FrontEnd) : (s.setFe f).ev = s.ev := rfl
@[simp] theorem State.setFe_cap (s : State) (f : FrontEnd → FrontEnd) : (s.setFe f).cap = s.cap := rfl
@[simp] theorem State.setFe_pwr (s : State) (f : FrontEnd → FrontEnd) : (s.setFe f).pwr = s.pwr := rfl
@[simp] theorem State.setFe_pins (s : State) (f : FrontEnd → FrontEnd) : (s.setFe f).pins = s.pins := rfl
@[simp] theorem State.setFe_fit (s : State) (f : FrontEnd → FrontEnd) : (s.setFe f).fit = s.fit := rfl
@[simp] theorem State.setFe_bootSeq (s : State) (f : FrontEnd → FrontEnd) : (s.setFe f).bootSeq = s.bootSeq := rfl
@[simp] theorem State.setFe_fails (s : State) (f : FrontEnd → FrontEnd) : (s.setFe f).fails = s.fails := rfl
@[simp] theorem State.setFe_failsKept (s : State) (f : FrontEnd → FrontEnd) : (s.setFe f).failsKept = s.failsKept := rfl
@[simp] theorem State.setFe_box (s : State) (f : FrontEnd → FrontEnd) : (s.setFe f).box = s.box := rfl
@[simp] theorem State.setFe_stopped (s : State) (f : FrontEnd → FrontEnd) : (s.setFe f).stopped = s.stopped := rfl
@[simp] theorem State.setFe_msix (s : State) (f : FrontEnd → FrontEnd) : (s.setFe f).msix = s.msix := rfl
@[simp] theorem State.setFe_msixPend (s : State) (f : FrontEnd → FrontEnd) : (s.setFe f).msixPend = s.msixPend := rfl
@[simp] theorem State.setFe_sent (s : State) (f : FrontEnd → FrontEnd) : (s.setFe f).sent = s.sent := rfl

/-! ## State.setSc -/

@[simp] theorem State.setSc_pending (s : State) (f : StepState → StepState) : (s.setSc f).pending = s.pending := rfl
@[simp] theorem State.setSc_now (s : State) (f : StepState → StepState) : (s.setSc f).now = s.now := rfl
@[simp] theorem State.setSc_free (s : State) (f : StepState → StepState) : (s.setSc f).free = s.free := rfl
@[simp] theorem State.setSc_regs (s : State) (f : StepState → StepState) : (s.setSc f).regs = s.regs := rfl
@[simp] theorem State.setSc_wo1 (s : State) (f : StepState → StepState) : (s.setSc f).wo1 = s.wo1 := rfl
@[simp] theorem State.setSc_hbm (s : State) (f : StepState → StepState) : (s.setSc f).hbm = s.hbm := rfl
@[simp] theorem State.setSc_poison (s : State) (f : StepState → StepState) : (s.setSc f).poison = s.poison := rfl
@[simp] theorem State.setSc_ceRows (s : State) (f : StepState → StepState) : (s.setSc f).ceRows = s.ceRows := rfl
@[simp] theorem State.setSc_ueRows (s : State) (f : StepState → StepState) : (s.setSc f).ueRows = s.ueRows := rfl
@[simp] theorem State.setSc_hostMem (s : State) (f : StepState → StepState) : (s.setSc f).hostMem = s.hostMem := rfl
@[simp] theorem State.setSc_tw (s : State) (f : StepState → StepState) : (s.setSc f).tw = s.tw := rfl
@[simp] theorem State.setSc_tiles (s : State) (f : StepState → StepState) : (s.setSc f).tiles = s.tiles := rfl
@[simp] theorem State.setSc_configs (s : State) (f : StepState → StepState) : (s.setSc f).configs = s.configs := rfl
@[simp] theorem State.setSc_nextCfg (s : State) (f : StepState → StepState) : (s.setSc f).nextCfg = s.nextCfg := rfl
@[simp] theorem State.setSc_ctxs (s : State) (f : StepState → StepState) : (s.setSc f).ctxs = s.ctxs := rfl
@[simp] theorem State.setSc_fe (s : State) (f : StepState → StepState) : (s.setSc f).fe = s.fe := rfl
@[simp] theorem State.setSc_se (s : State) (f : StepState → StepState) : (s.setSc f).se = s.se := rfl
@[simp] theorem State.setSc_sc (s : State) (f : StepState → StepState) : (s.setSc f).sc = f s.sc := rfl
@[simp] theorem State.setSc_link (s : State) (f : StepState → StepState) : (s.setSc f).link = s.link := rfl
@[simp] theorem State.setSc_eth (s : State) (f : StepState → StepState) : (s.setSc f).eth = s.eth := rfl
@[simp] theorem State.setSc_dom (s : State) (f : StepState → StepState) : (s.setSc f).dom = s.dom := rfl
@[simp] theorem State.setSc_qps (s : State) (f : StepState → StepState) : (s.setSc f).qps = s.qps := rfl
@[simp] theorem State.setSc_ev (s : State) (f : StepState → StepState) : (s.setSc f).ev = s.ev := rfl
@[simp] theorem State.setSc_cap (s : State) (f : StepState → StepState) : (s.setSc f).cap = s.cap := rfl
@[simp] theorem State.setSc_pwr (s : State) (f : StepState → StepState) : (s.setSc f).pwr = s.pwr := rfl
@[simp] theorem State.setSc_pins (s : State) (f : StepState → StepState) : (s.setSc f).pins = s.pins := rfl
@[simp] theorem State.setSc_fit (s : State) (f : StepState → StepState) : (s.setSc f).fit = s.fit := rfl
@[simp] theorem State.setSc_bootSeq (s : State) (f : StepState → StepState) : (s.setSc f).bootSeq = s.bootSeq := rfl
@[simp] theorem State.setSc_fails (s : State) (f : StepState → StepState) : (s.setSc f).fails = s.fails := rfl
@[simp] theorem State.setSc_failsKept (s : State) (f : StepState → StepState) : (s.setSc f).failsKept = s.failsKept := rfl
@[simp] theorem State.setSc_box (s : State) (f : StepState → StepState) : (s.setSc f).box = s.box := rfl
@[simp] theorem State.setSc_stopped (s : State) (f : StepState → StepState) : (s.setSc f).stopped = s.stopped := rfl
@[simp] theorem State.setSc_msix (s : State) (f : StepState → StepState) : (s.setSc f).msix = s.msix := rfl
@[simp] theorem State.setSc_msixPend (s : State) (f : StepState → StepState) : (s.setSc f).msixPend = s.msixPend := rfl
@[simp] theorem State.setSc_sent (s : State) (f : StepState → StepState) : (s.setSc f).sent = s.sent := rfl

/-! ## State.setDom -/

@[simp] theorem State.setDom_pending (s : State) (f : Domain → Domain) : (s.setDom f).pending = s.pending := rfl
@[simp] theorem State.setDom_now (s : State) (f : Domain → Domain) : (s.setDom f).now = s.now := rfl
@[simp] theorem State.setDom_free (s : State) (f : Domain → Domain) : (s.setDom f).free = s.free := rfl
@[simp] theorem State.setDom_regs (s : State) (f : Domain → Domain) : (s.setDom f).regs = s.regs := rfl
@[simp] theorem State.setDom_wo1 (s : State) (f : Domain → Domain) : (s.setDom f).wo1 = s.wo1 := rfl
@[simp] theorem State.setDom_hbm (s : State) (f : Domain → Domain) : (s.setDom f).hbm = s.hbm := rfl
@[simp] theorem State.setDom_poison (s : State) (f : Domain → Domain) : (s.setDom f).poison = s.poison := rfl
@[simp] theorem State.setDom_ceRows (s : State) (f : Domain → Domain) : (s.setDom f).ceRows = s.ceRows := rfl
@[simp] theorem State.setDom_ueRows (s : State) (f : Domain → Domain) : (s.setDom f).ueRows = s.ueRows := rfl
@[simp] theorem State.setDom_hostMem (s : State) (f : Domain → Domain) : (s.setDom f).hostMem = s.hostMem := rfl
@[simp] theorem State.setDom_tw (s : State) (f : Domain → Domain) : (s.setDom f).tw = s.tw := rfl
@[simp] theorem State.setDom_tiles (s : State) (f : Domain → Domain) : (s.setDom f).tiles = s.tiles := rfl
@[simp] theorem State.setDom_configs (s : State) (f : Domain → Domain) : (s.setDom f).configs = s.configs := rfl
@[simp] theorem State.setDom_nextCfg (s : State) (f : Domain → Domain) : (s.setDom f).nextCfg = s.nextCfg := rfl
@[simp] theorem State.setDom_ctxs (s : State) (f : Domain → Domain) : (s.setDom f).ctxs = s.ctxs := rfl
@[simp] theorem State.setDom_fe (s : State) (f : Domain → Domain) : (s.setDom f).fe = s.fe := rfl
@[simp] theorem State.setDom_se (s : State) (f : Domain → Domain) : (s.setDom f).se = s.se := rfl
@[simp] theorem State.setDom_sc (s : State) (f : Domain → Domain) : (s.setDom f).sc = s.sc := rfl
@[simp] theorem State.setDom_link (s : State) (f : Domain → Domain) : (s.setDom f).link = s.link := rfl
@[simp] theorem State.setDom_eth (s : State) (f : Domain → Domain) : (s.setDom f).eth = s.eth := rfl
@[simp] theorem State.setDom_dom (s : State) (f : Domain → Domain) : (s.setDom f).dom = f s.dom := rfl
@[simp] theorem State.setDom_qps (s : State) (f : Domain → Domain) : (s.setDom f).qps = s.qps := rfl
@[simp] theorem State.setDom_ev (s : State) (f : Domain → Domain) : (s.setDom f).ev = s.ev := rfl
@[simp] theorem State.setDom_cap (s : State) (f : Domain → Domain) : (s.setDom f).cap = s.cap := rfl
@[simp] theorem State.setDom_pwr (s : State) (f : Domain → Domain) : (s.setDom f).pwr = s.pwr := rfl
@[simp] theorem State.setDom_pins (s : State) (f : Domain → Domain) : (s.setDom f).pins = s.pins := rfl
@[simp] theorem State.setDom_fit (s : State) (f : Domain → Domain) : (s.setDom f).fit = s.fit := rfl
@[simp] theorem State.setDom_bootSeq (s : State) (f : Domain → Domain) : (s.setDom f).bootSeq = s.bootSeq := rfl
@[simp] theorem State.setDom_fails (s : State) (f : Domain → Domain) : (s.setDom f).fails = s.fails := rfl
@[simp] theorem State.setDom_failsKept (s : State) (f : Domain → Domain) : (s.setDom f).failsKept = s.failsKept := rfl
@[simp] theorem State.setDom_box (s : State) (f : Domain → Domain) : (s.setDom f).box = s.box := rfl
@[simp] theorem State.setDom_stopped (s : State) (f : Domain → Domain) : (s.setDom f).stopped = s.stopped := rfl
@[simp] theorem State.setDom_msix (s : State) (f : Domain → Domain) : (s.setDom f).msix = s.msix := rfl
@[simp] theorem State.setDom_msixPend (s : State) (f : Domain → Domain) : (s.setDom f).msixPend = s.msixPend := rfl
@[simp] theorem State.setDom_sent (s : State) (f : Domain → Domain) : (s.setDom f).sent = s.sent := rfl

/-! ## State.setCap -/

@[simp] theorem State.setCap_pending (s : State) (f : Captain → Captain) : (s.setCap f).pending = s.pending := rfl
@[simp] theorem State.setCap_now (s : State) (f : Captain → Captain) : (s.setCap f).now = s.now := rfl
@[simp] theorem State.setCap_free (s : State) (f : Captain → Captain) : (s.setCap f).free = s.free := rfl
@[simp] theorem State.setCap_regs (s : State) (f : Captain → Captain) : (s.setCap f).regs = s.regs := rfl
@[simp] theorem State.setCap_wo1 (s : State) (f : Captain → Captain) : (s.setCap f).wo1 = s.wo1 := rfl
@[simp] theorem State.setCap_hbm (s : State) (f : Captain → Captain) : (s.setCap f).hbm = s.hbm := rfl
@[simp] theorem State.setCap_poison (s : State) (f : Captain → Captain) : (s.setCap f).poison = s.poison := rfl
@[simp] theorem State.setCap_ceRows (s : State) (f : Captain → Captain) : (s.setCap f).ceRows = s.ceRows := rfl
@[simp] theorem State.setCap_ueRows (s : State) (f : Captain → Captain) : (s.setCap f).ueRows = s.ueRows := rfl
@[simp] theorem State.setCap_hostMem (s : State) (f : Captain → Captain) : (s.setCap f).hostMem = s.hostMem := rfl
@[simp] theorem State.setCap_tw (s : State) (f : Captain → Captain) : (s.setCap f).tw = s.tw := rfl
@[simp] theorem State.setCap_tiles (s : State) (f : Captain → Captain) : (s.setCap f).tiles = s.tiles := rfl
@[simp] theorem State.setCap_configs (s : State) (f : Captain → Captain) : (s.setCap f).configs = s.configs := rfl
@[simp] theorem State.setCap_nextCfg (s : State) (f : Captain → Captain) : (s.setCap f).nextCfg = s.nextCfg := rfl
@[simp] theorem State.setCap_ctxs (s : State) (f : Captain → Captain) : (s.setCap f).ctxs = s.ctxs := rfl
@[simp] theorem State.setCap_fe (s : State) (f : Captain → Captain) : (s.setCap f).fe = s.fe := rfl
@[simp] theorem State.setCap_se (s : State) (f : Captain → Captain) : (s.setCap f).se = s.se := rfl
@[simp] theorem State.setCap_sc (s : State) (f : Captain → Captain) : (s.setCap f).sc = s.sc := rfl
@[simp] theorem State.setCap_link (s : State) (f : Captain → Captain) : (s.setCap f).link = s.link := rfl
@[simp] theorem State.setCap_eth (s : State) (f : Captain → Captain) : (s.setCap f).eth = s.eth := rfl
@[simp] theorem State.setCap_dom (s : State) (f : Captain → Captain) : (s.setCap f).dom = s.dom := rfl
@[simp] theorem State.setCap_qps (s : State) (f : Captain → Captain) : (s.setCap f).qps = s.qps := rfl
@[simp] theorem State.setCap_ev (s : State) (f : Captain → Captain) : (s.setCap f).ev = s.ev := rfl
@[simp] theorem State.setCap_cap (s : State) (f : Captain → Captain) : (s.setCap f).cap = f s.cap := rfl
@[simp] theorem State.setCap_pwr (s : State) (f : Captain → Captain) : (s.setCap f).pwr = s.pwr := rfl
@[simp] theorem State.setCap_pins (s : State) (f : Captain → Captain) : (s.setCap f).pins = s.pins := rfl
@[simp] theorem State.setCap_fit (s : State) (f : Captain → Captain) : (s.setCap f).fit = s.fit := rfl
@[simp] theorem State.setCap_bootSeq (s : State) (f : Captain → Captain) : (s.setCap f).bootSeq = s.bootSeq := rfl
@[simp] theorem State.setCap_fails (s : State) (f : Captain → Captain) : (s.setCap f).fails = s.fails := rfl
@[simp] theorem State.setCap_failsKept (s : State) (f : Captain → Captain) : (s.setCap f).failsKept = s.failsKept := rfl
@[simp] theorem State.setCap_box (s : State) (f : Captain → Captain) : (s.setCap f).box = s.box := rfl
@[simp] theorem State.setCap_stopped (s : State) (f : Captain → Captain) : (s.setCap f).stopped = s.stopped := rfl
@[simp] theorem State.setCap_msix (s : State) (f : Captain → Captain) : (s.setCap f).msix = s.msix := rfl
@[simp] theorem State.setCap_msixPend (s : State) (f : Captain → Captain) : (s.setCap f).msixPend = s.msixPend := rfl
@[simp] theorem State.setCap_sent (s : State) (f : Captain → Captain) : (s.setCap f).sent = s.sent := rfl

/-! ## State.setEv -/

@[simp] theorem State.setEv_pending (s : State) (f : EvState → EvState) : (s.setEv f).pending = s.pending := rfl
@[simp] theorem State.setEv_now (s : State) (f : EvState → EvState) : (s.setEv f).now = s.now := rfl
@[simp] theorem State.setEv_free (s : State) (f : EvState → EvState) : (s.setEv f).free = s.free := rfl
@[simp] theorem State.setEv_regs (s : State) (f : EvState → EvState) : (s.setEv f).regs = s.regs := rfl
@[simp] theorem State.setEv_wo1 (s : State) (f : EvState → EvState) : (s.setEv f).wo1 = s.wo1 := rfl
@[simp] theorem State.setEv_hbm (s : State) (f : EvState → EvState) : (s.setEv f).hbm = s.hbm := rfl
@[simp] theorem State.setEv_poison (s : State) (f : EvState → EvState) : (s.setEv f).poison = s.poison := rfl
@[simp] theorem State.setEv_ceRows (s : State) (f : EvState → EvState) : (s.setEv f).ceRows = s.ceRows := rfl
@[simp] theorem State.setEv_ueRows (s : State) (f : EvState → EvState) : (s.setEv f).ueRows = s.ueRows := rfl
@[simp] theorem State.setEv_hostMem (s : State) (f : EvState → EvState) : (s.setEv f).hostMem = s.hostMem := rfl
@[simp] theorem State.setEv_tw (s : State) (f : EvState → EvState) : (s.setEv f).tw = s.tw := rfl
@[simp] theorem State.setEv_tiles (s : State) (f : EvState → EvState) : (s.setEv f).tiles = s.tiles := rfl
@[simp] theorem State.setEv_configs (s : State) (f : EvState → EvState) : (s.setEv f).configs = s.configs := rfl
@[simp] theorem State.setEv_nextCfg (s : State) (f : EvState → EvState) : (s.setEv f).nextCfg = s.nextCfg := rfl
@[simp] theorem State.setEv_ctxs (s : State) (f : EvState → EvState) : (s.setEv f).ctxs = s.ctxs := rfl
@[simp] theorem State.setEv_fe (s : State) (f : EvState → EvState) : (s.setEv f).fe = s.fe := rfl
@[simp] theorem State.setEv_se (s : State) (f : EvState → EvState) : (s.setEv f).se = s.se := rfl
@[simp] theorem State.setEv_sc (s : State) (f : EvState → EvState) : (s.setEv f).sc = s.sc := rfl
@[simp] theorem State.setEv_link (s : State) (f : EvState → EvState) : (s.setEv f).link = s.link := rfl
@[simp] theorem State.setEv_eth (s : State) (f : EvState → EvState) : (s.setEv f).eth = s.eth := rfl
@[simp] theorem State.setEv_dom (s : State) (f : EvState → EvState) : (s.setEv f).dom = s.dom := rfl
@[simp] theorem State.setEv_qps (s : State) (f : EvState → EvState) : (s.setEv f).qps = s.qps := rfl
@[simp] theorem State.setEv_ev (s : State) (f : EvState → EvState) : (s.setEv f).ev = f s.ev := rfl
@[simp] theorem State.setEv_cap (s : State) (f : EvState → EvState) : (s.setEv f).cap = s.cap := rfl
@[simp] theorem State.setEv_pwr (s : State) (f : EvState → EvState) : (s.setEv f).pwr = s.pwr := rfl
@[simp] theorem State.setEv_pins (s : State) (f : EvState → EvState) : (s.setEv f).pins = s.pins := rfl
@[simp] theorem State.setEv_fit (s : State) (f : EvState → EvState) : (s.setEv f).fit = s.fit := rfl
@[simp] theorem State.setEv_bootSeq (s : State) (f : EvState → EvState) : (s.setEv f).bootSeq = s.bootSeq := rfl
@[simp] theorem State.setEv_fails (s : State) (f : EvState → EvState) : (s.setEv f).fails = s.fails := rfl
@[simp] theorem State.setEv_failsKept (s : State) (f : EvState → EvState) : (s.setEv f).failsKept = s.failsKept := rfl
@[simp] theorem State.setEv_box (s : State) (f : EvState → EvState) : (s.setEv f).box = s.box := rfl
@[simp] theorem State.setEv_stopped (s : State) (f : EvState → EvState) : (s.setEv f).stopped = s.stopped := rfl
@[simp] theorem State.setEv_msix (s : State) (f : EvState → EvState) : (s.setEv f).msix = s.msix := rfl
@[simp] theorem State.setEv_msixPend (s : State) (f : EvState → EvState) : (s.setEv f).msixPend = s.msixPend := rfl
@[simp] theorem State.setEv_sent (s : State) (f : EvState → EvState) : (s.setEv f).sent = s.sent := rfl

/-! ## State.setPwr -/

@[simp] theorem State.setPwr_pending (s : State) (f : Power → Power) : (s.setPwr f).pending = s.pending := rfl
@[simp] theorem State.setPwr_now (s : State) (f : Power → Power) : (s.setPwr f).now = s.now := rfl
@[simp] theorem State.setPwr_free (s : State) (f : Power → Power) : (s.setPwr f).free = s.free := rfl
@[simp] theorem State.setPwr_regs (s : State) (f : Power → Power) : (s.setPwr f).regs = s.regs := rfl
@[simp] theorem State.setPwr_wo1 (s : State) (f : Power → Power) : (s.setPwr f).wo1 = s.wo1 := rfl
@[simp] theorem State.setPwr_hbm (s : State) (f : Power → Power) : (s.setPwr f).hbm = s.hbm := rfl
@[simp] theorem State.setPwr_poison (s : State) (f : Power → Power) : (s.setPwr f).poison = s.poison := rfl
@[simp] theorem State.setPwr_ceRows (s : State) (f : Power → Power) : (s.setPwr f).ceRows = s.ceRows := rfl
@[simp] theorem State.setPwr_ueRows (s : State) (f : Power → Power) : (s.setPwr f).ueRows = s.ueRows := rfl
@[simp] theorem State.setPwr_hostMem (s : State) (f : Power → Power) : (s.setPwr f).hostMem = s.hostMem := rfl
@[simp] theorem State.setPwr_tw (s : State) (f : Power → Power) : (s.setPwr f).tw = s.tw := rfl
@[simp] theorem State.setPwr_tiles (s : State) (f : Power → Power) : (s.setPwr f).tiles = s.tiles := rfl
@[simp] theorem State.setPwr_configs (s : State) (f : Power → Power) : (s.setPwr f).configs = s.configs := rfl
@[simp] theorem State.setPwr_nextCfg (s : State) (f : Power → Power) : (s.setPwr f).nextCfg = s.nextCfg := rfl
@[simp] theorem State.setPwr_ctxs (s : State) (f : Power → Power) : (s.setPwr f).ctxs = s.ctxs := rfl
@[simp] theorem State.setPwr_fe (s : State) (f : Power → Power) : (s.setPwr f).fe = s.fe := rfl
@[simp] theorem State.setPwr_se (s : State) (f : Power → Power) : (s.setPwr f).se = s.se := rfl
@[simp] theorem State.setPwr_sc (s : State) (f : Power → Power) : (s.setPwr f).sc = s.sc := rfl
@[simp] theorem State.setPwr_link (s : State) (f : Power → Power) : (s.setPwr f).link = s.link := rfl
@[simp] theorem State.setPwr_eth (s : State) (f : Power → Power) : (s.setPwr f).eth = s.eth := rfl
@[simp] theorem State.setPwr_dom (s : State) (f : Power → Power) : (s.setPwr f).dom = s.dom := rfl
@[simp] theorem State.setPwr_qps (s : State) (f : Power → Power) : (s.setPwr f).qps = s.qps := rfl
@[simp] theorem State.setPwr_ev (s : State) (f : Power → Power) : (s.setPwr f).ev = s.ev := rfl
@[simp] theorem State.setPwr_cap (s : State) (f : Power → Power) : (s.setPwr f).cap = s.cap := rfl
@[simp] theorem State.setPwr_pwr (s : State) (f : Power → Power) : (s.setPwr f).pwr = f s.pwr := rfl
@[simp] theorem State.setPwr_pins (s : State) (f : Power → Power) : (s.setPwr f).pins = s.pins := rfl
@[simp] theorem State.setPwr_fit (s : State) (f : Power → Power) : (s.setPwr f).fit = s.fit := rfl
@[simp] theorem State.setPwr_bootSeq (s : State) (f : Power → Power) : (s.setPwr f).bootSeq = s.bootSeq := rfl
@[simp] theorem State.setPwr_fails (s : State) (f : Power → Power) : (s.setPwr f).fails = s.fails := rfl
@[simp] theorem State.setPwr_failsKept (s : State) (f : Power → Power) : (s.setPwr f).failsKept = s.failsKept := rfl
@[simp] theorem State.setPwr_box (s : State) (f : Power → Power) : (s.setPwr f).box = s.box := rfl
@[simp] theorem State.setPwr_stopped (s : State) (f : Power → Power) : (s.setPwr f).stopped = s.stopped := rfl
@[simp] theorem State.setPwr_msix (s : State) (f : Power → Power) : (s.setPwr f).msix = s.msix := rfl
@[simp] theorem State.setPwr_msixPend (s : State) (f : Power → Power) : (s.setPwr f).msixPend = s.msixPend := rfl
@[simp] theorem State.setPwr_sent (s : State) (f : Power → Power) : (s.setPwr f).sent = s.sent := rfl

/-! ## State.setPins -/

@[simp] theorem State.setPins_pending (s : State) (f : Pins → Pins) : (s.setPins f).pending = s.pending := rfl
@[simp] theorem State.setPins_now (s : State) (f : Pins → Pins) : (s.setPins f).now = s.now := rfl
@[simp] theorem State.setPins_free (s : State) (f : Pins → Pins) : (s.setPins f).free = s.free := rfl
@[simp] theorem State.setPins_regs (s : State) (f : Pins → Pins) : (s.setPins f).regs = s.regs := rfl
@[simp] theorem State.setPins_wo1 (s : State) (f : Pins → Pins) : (s.setPins f).wo1 = s.wo1 := rfl
@[simp] theorem State.setPins_hbm (s : State) (f : Pins → Pins) : (s.setPins f).hbm = s.hbm := rfl
@[simp] theorem State.setPins_poison (s : State) (f : Pins → Pins) : (s.setPins f).poison = s.poison := rfl
@[simp] theorem State.setPins_ceRows (s : State) (f : Pins → Pins) : (s.setPins f).ceRows = s.ceRows := rfl
@[simp] theorem State.setPins_ueRows (s : State) (f : Pins → Pins) : (s.setPins f).ueRows = s.ueRows := rfl
@[simp] theorem State.setPins_hostMem (s : State) (f : Pins → Pins) : (s.setPins f).hostMem = s.hostMem := rfl
@[simp] theorem State.setPins_tw (s : State) (f : Pins → Pins) : (s.setPins f).tw = s.tw := rfl
@[simp] theorem State.setPins_tiles (s : State) (f : Pins → Pins) : (s.setPins f).tiles = s.tiles := rfl
@[simp] theorem State.setPins_configs (s : State) (f : Pins → Pins) : (s.setPins f).configs = s.configs := rfl
@[simp] theorem State.setPins_nextCfg (s : State) (f : Pins → Pins) : (s.setPins f).nextCfg = s.nextCfg := rfl
@[simp] theorem State.setPins_ctxs (s : State) (f : Pins → Pins) : (s.setPins f).ctxs = s.ctxs := rfl
@[simp] theorem State.setPins_fe (s : State) (f : Pins → Pins) : (s.setPins f).fe = s.fe := rfl
@[simp] theorem State.setPins_se (s : State) (f : Pins → Pins) : (s.setPins f).se = s.se := rfl
@[simp] theorem State.setPins_sc (s : State) (f : Pins → Pins) : (s.setPins f).sc = s.sc := rfl
@[simp] theorem State.setPins_link (s : State) (f : Pins → Pins) : (s.setPins f).link = s.link := rfl
@[simp] theorem State.setPins_eth (s : State) (f : Pins → Pins) : (s.setPins f).eth = s.eth := rfl
@[simp] theorem State.setPins_dom (s : State) (f : Pins → Pins) : (s.setPins f).dom = s.dom := rfl
@[simp] theorem State.setPins_qps (s : State) (f : Pins → Pins) : (s.setPins f).qps = s.qps := rfl
@[simp] theorem State.setPins_ev (s : State) (f : Pins → Pins) : (s.setPins f).ev = s.ev := rfl
@[simp] theorem State.setPins_cap (s : State) (f : Pins → Pins) : (s.setPins f).cap = s.cap := rfl
@[simp] theorem State.setPins_pwr (s : State) (f : Pins → Pins) : (s.setPins f).pwr = s.pwr := rfl
@[simp] theorem State.setPins_pins (s : State) (f : Pins → Pins) : (s.setPins f).pins = f s.pins := rfl
@[simp] theorem State.setPins_fit (s : State) (f : Pins → Pins) : (s.setPins f).fit = s.fit := rfl
@[simp] theorem State.setPins_bootSeq (s : State) (f : Pins → Pins) : (s.setPins f).bootSeq = s.bootSeq := rfl
@[simp] theorem State.setPins_fails (s : State) (f : Pins → Pins) : (s.setPins f).fails = s.fails := rfl
@[simp] theorem State.setPins_failsKept (s : State) (f : Pins → Pins) : (s.setPins f).failsKept = s.failsKept := rfl
@[simp] theorem State.setPins_box (s : State) (f : Pins → Pins) : (s.setPins f).box = s.box := rfl
@[simp] theorem State.setPins_stopped (s : State) (f : Pins → Pins) : (s.setPins f).stopped = s.stopped := rfl
@[simp] theorem State.setPins_msix (s : State) (f : Pins → Pins) : (s.setPins f).msix = s.msix := rfl
@[simp] theorem State.setPins_msixPend (s : State) (f : Pins → Pins) : (s.setPins f).msixPend = s.msixPend := rfl
@[simp] theorem State.setPins_sent (s : State) (f : Pins → Pins) : (s.setPins f).sent = s.sent := rfl

/-! ## State.setPort -/

@[simp] theorem State.setPort_pending (s : State) (p : Nat) (x : PortSt) : (s.setPort p x).pending = s.pending := rfl
@[simp] theorem State.setPort_now (s : State) (p : Nat) (x : PortSt) : (s.setPort p x).now = s.now := rfl
@[simp] theorem State.setPort_free (s : State) (p : Nat) (x : PortSt) : (s.setPort p x).free = s.free := rfl
@[simp] theorem State.setPort_regs (s : State) (p : Nat) (x : PortSt) : (s.setPort p x).regs = s.regs := rfl
@[simp] theorem State.setPort_wo1 (s : State) (p : Nat) (x : PortSt) : (s.setPort p x).wo1 = s.wo1 := rfl
@[simp] theorem State.setPort_hbm (s : State) (p : Nat) (x : PortSt) : (s.setPort p x).hbm = s.hbm := rfl
@[simp] theorem State.setPort_poison (s : State) (p : Nat) (x : PortSt) : (s.setPort p x).poison = s.poison := rfl
@[simp] theorem State.setPort_ceRows (s : State) (p : Nat) (x : PortSt) : (s.setPort p x).ceRows = s.ceRows := rfl
@[simp] theorem State.setPort_ueRows (s : State) (p : Nat) (x : PortSt) : (s.setPort p x).ueRows = s.ueRows := rfl
@[simp] theorem State.setPort_hostMem (s : State) (p : Nat) (x : PortSt) : (s.setPort p x).hostMem = s.hostMem := rfl
@[simp] theorem State.setPort_tw (s : State) (p : Nat) (x : PortSt) : (s.setPort p x).tw = s.tw := rfl
@[simp] theorem State.setPort_tiles (s : State) (p : Nat) (x : PortSt) : (s.setPort p x).tiles = s.tiles := rfl
@[simp] theorem State.setPort_configs (s : State) (p : Nat) (x : PortSt) : (s.setPort p x).configs = s.configs := rfl
@[simp] theorem State.setPort_nextCfg (s : State) (p : Nat) (x : PortSt) : (s.setPort p x).nextCfg = s.nextCfg := rfl
@[simp] theorem State.setPort_ctxs (s : State) (p : Nat) (x : PortSt) : (s.setPort p x).ctxs = s.ctxs := rfl
@[simp] theorem State.setPort_fe (s : State) (p : Nat) (x : PortSt) : (s.setPort p x).fe = s.fe := rfl
@[simp] theorem State.setPort_se (s : State) (p : Nat) (x : PortSt) : (s.setPort p x).se = s.se := rfl
@[simp] theorem State.setPort_sc (s : State) (p : Nat) (x : PortSt) : (s.setPort p x).sc = s.sc := rfl
@[simp] theorem State.setPort_link (s : State) (p : Nat) (x : PortSt) : (s.setPort p x).link = mapSet s.link p x := rfl
@[simp] theorem State.setPort_eth (s : State) (p : Nat) (x : PortSt) : (s.setPort p x).eth = s.eth := rfl
@[simp] theorem State.setPort_dom (s : State) (p : Nat) (x : PortSt) : (s.setPort p x).dom = s.dom := rfl
@[simp] theorem State.setPort_qps (s : State) (p : Nat) (x : PortSt) : (s.setPort p x).qps = s.qps := rfl
@[simp] theorem State.setPort_ev (s : State) (p : Nat) (x : PortSt) : (s.setPort p x).ev = s.ev := rfl
@[simp] theorem State.setPort_cap (s : State) (p : Nat) (x : PortSt) : (s.setPort p x).cap = s.cap := rfl
@[simp] theorem State.setPort_pwr (s : State) (p : Nat) (x : PortSt) : (s.setPort p x).pwr = s.pwr := rfl
@[simp] theorem State.setPort_pins (s : State) (p : Nat) (x : PortSt) : (s.setPort p x).pins = s.pins := rfl
@[simp] theorem State.setPort_fit (s : State) (p : Nat) (x : PortSt) : (s.setPort p x).fit = s.fit := rfl
@[simp] theorem State.setPort_bootSeq (s : State) (p : Nat) (x : PortSt) : (s.setPort p x).bootSeq = s.bootSeq := rfl
@[simp] theorem State.setPort_fails (s : State) (p : Nat) (x : PortSt) : (s.setPort p x).fails = s.fails := rfl
@[simp] theorem State.setPort_failsKept (s : State) (p : Nat) (x : PortSt) : (s.setPort p x).failsKept = s.failsKept := rfl
@[simp] theorem State.setPort_box (s : State) (p : Nat) (x : PortSt) : (s.setPort p x).box = s.box := rfl
@[simp] theorem State.setPort_stopped (s : State) (p : Nat) (x : PortSt) : (s.setPort p x).stopped = s.stopped := rfl
@[simp] theorem State.setPort_msix (s : State) (p : Nat) (x : PortSt) : (s.setPort p x).msix = s.msix := rfl
@[simp] theorem State.setPort_msixPend (s : State) (p : Nat) (x : PortSt) : (s.setPort p x).msixPend = s.msixPend := rfl
@[simp] theorem State.setPort_sent (s : State) (p : Nat) (x : PortSt) : (s.setPort p x).sent = s.sent := rfl

/-! ## State.setEthPort -/

@[simp] theorem State.setEthPort_pending (s : State) (p : Nat) (x : PortSt) : (s.setEthPort p x).pending = s.pending := rfl
@[simp] theorem State.setEthPort_now (s : State) (p : Nat) (x : PortSt) : (s.setEthPort p x).now = s.now := rfl
@[simp] theorem State.setEthPort_free (s : State) (p : Nat) (x : PortSt) : (s.setEthPort p x).free = s.free := rfl
@[simp] theorem State.setEthPort_regs (s : State) (p : Nat) (x : PortSt) : (s.setEthPort p x).regs = s.regs := rfl
@[simp] theorem State.setEthPort_wo1 (s : State) (p : Nat) (x : PortSt) : (s.setEthPort p x).wo1 = s.wo1 := rfl
@[simp] theorem State.setEthPort_hbm (s : State) (p : Nat) (x : PortSt) : (s.setEthPort p x).hbm = s.hbm := rfl
@[simp] theorem State.setEthPort_poison (s : State) (p : Nat) (x : PortSt) : (s.setEthPort p x).poison = s.poison := rfl
@[simp] theorem State.setEthPort_ceRows (s : State) (p : Nat) (x : PortSt) : (s.setEthPort p x).ceRows = s.ceRows := rfl
@[simp] theorem State.setEthPort_ueRows (s : State) (p : Nat) (x : PortSt) : (s.setEthPort p x).ueRows = s.ueRows := rfl
@[simp] theorem State.setEthPort_hostMem (s : State) (p : Nat) (x : PortSt) : (s.setEthPort p x).hostMem = s.hostMem := rfl
@[simp] theorem State.setEthPort_tw (s : State) (p : Nat) (x : PortSt) : (s.setEthPort p x).tw = s.tw := rfl
@[simp] theorem State.setEthPort_tiles (s : State) (p : Nat) (x : PortSt) : (s.setEthPort p x).tiles = s.tiles := rfl
@[simp] theorem State.setEthPort_configs (s : State) (p : Nat) (x : PortSt) : (s.setEthPort p x).configs = s.configs := rfl
@[simp] theorem State.setEthPort_nextCfg (s : State) (p : Nat) (x : PortSt) : (s.setEthPort p x).nextCfg = s.nextCfg := rfl
@[simp] theorem State.setEthPort_ctxs (s : State) (p : Nat) (x : PortSt) : (s.setEthPort p x).ctxs = s.ctxs := rfl
@[simp] theorem State.setEthPort_fe (s : State) (p : Nat) (x : PortSt) : (s.setEthPort p x).fe = s.fe := rfl
@[simp] theorem State.setEthPort_se (s : State) (p : Nat) (x : PortSt) : (s.setEthPort p x).se = s.se := rfl
@[simp] theorem State.setEthPort_sc (s : State) (p : Nat) (x : PortSt) : (s.setEthPort p x).sc = s.sc := rfl
@[simp] theorem State.setEthPort_link (s : State) (p : Nat) (x : PortSt) : (s.setEthPort p x).link = s.link := rfl
@[simp] theorem State.setEthPort_eth (s : State) (p : Nat) (x : PortSt) : (s.setEthPort p x).eth = mapSet s.eth p x := rfl
@[simp] theorem State.setEthPort_dom (s : State) (p : Nat) (x : PortSt) : (s.setEthPort p x).dom = s.dom := rfl
@[simp] theorem State.setEthPort_qps (s : State) (p : Nat) (x : PortSt) : (s.setEthPort p x).qps = s.qps := rfl
@[simp] theorem State.setEthPort_ev (s : State) (p : Nat) (x : PortSt) : (s.setEthPort p x).ev = s.ev := rfl
@[simp] theorem State.setEthPort_cap (s : State) (p : Nat) (x : PortSt) : (s.setEthPort p x).cap = s.cap := rfl
@[simp] theorem State.setEthPort_pwr (s : State) (p : Nat) (x : PortSt) : (s.setEthPort p x).pwr = s.pwr := rfl
@[simp] theorem State.setEthPort_pins (s : State) (p : Nat) (x : PortSt) : (s.setEthPort p x).pins = s.pins := rfl
@[simp] theorem State.setEthPort_fit (s : State) (p : Nat) (x : PortSt) : (s.setEthPort p x).fit = s.fit := rfl
@[simp] theorem State.setEthPort_bootSeq (s : State) (p : Nat) (x : PortSt) : (s.setEthPort p x).bootSeq = s.bootSeq := rfl
@[simp] theorem State.setEthPort_fails (s : State) (p : Nat) (x : PortSt) : (s.setEthPort p x).fails = s.fails := rfl
@[simp] theorem State.setEthPort_failsKept (s : State) (p : Nat) (x : PortSt) : (s.setEthPort p x).failsKept = s.failsKept := rfl
@[simp] theorem State.setEthPort_box (s : State) (p : Nat) (x : PortSt) : (s.setEthPort p x).box = s.box := rfl
@[simp] theorem State.setEthPort_stopped (s : State) (p : Nat) (x : PortSt) : (s.setEthPort p x).stopped = s.stopped := rfl
@[simp] theorem State.setEthPort_msix (s : State) (p : Nat) (x : PortSt) : (s.setEthPort p x).msix = s.msix := rfl
@[simp] theorem State.setEthPort_msixPend (s : State) (p : Nat) (x : PortSt) : (s.setEthPort p x).msixPend = s.msixPend := rfl
@[simp] theorem State.setEthPort_sent (s : State) (p : Nat) (x : PortSt) : (s.setEthPort p x).sent = s.sent := rfl

/-! ## State.poke -/

theorem State.poke_only (s : State) (l : Loc) (bs : List Nat) :
    s.poke l bs = { s with hbm := if l.host then s.hbm else s.hbm.wrBytes l.addr bs
                           hostMem := if l.host then s.hostMem.wrBytes l.addr bs else s.hostMem } := by
  unfold State.poke; split <;> rfl

@[simp] theorem State.poke_pending (s : State) (l : Loc) (bs : List Nat) : (s.poke l bs).pending = s.pending := by
  rw [State.poke_only]
@[simp] theorem State.poke_now (s : State) (l : Loc) (bs : List Nat) : (s.poke l bs).now = s.now := by
  rw [State.poke_only]
@[simp] theorem State.poke_free (s : State) (l : Loc) (bs : List Nat) : (s.poke l bs).free = s.free := by
  rw [State.poke_only]
@[simp] theorem State.poke_regs (s : State) (l : Loc) (bs : List Nat) : (s.poke l bs).regs = s.regs := by
  rw [State.poke_only]
@[simp] theorem State.poke_wo1 (s : State) (l : Loc) (bs : List Nat) : (s.poke l bs).wo1 = s.wo1 := by
  rw [State.poke_only]
@[simp] theorem State.poke_poison (s : State) (l : Loc) (bs : List Nat) : (s.poke l bs).poison = s.poison := by
  rw [State.poke_only]
@[simp] theorem State.poke_ceRows (s : State) (l : Loc) (bs : List Nat) : (s.poke l bs).ceRows = s.ceRows := by
  rw [State.poke_only]
@[simp] theorem State.poke_ueRows (s : State) (l : Loc) (bs : List Nat) : (s.poke l bs).ueRows = s.ueRows := by
  rw [State.poke_only]
@[simp] theorem State.poke_tw (s : State) (l : Loc) (bs : List Nat) : (s.poke l bs).tw = s.tw := by
  rw [State.poke_only]
@[simp] theorem State.poke_tiles (s : State) (l : Loc) (bs : List Nat) : (s.poke l bs).tiles = s.tiles := by
  rw [State.poke_only]
@[simp] theorem State.poke_configs (s : State) (l : Loc) (bs : List Nat) : (s.poke l bs).configs = s.configs := by
  rw [State.poke_only]
@[simp] theorem State.poke_nextCfg (s : State) (l : Loc) (bs : List Nat) : (s.poke l bs).nextCfg = s.nextCfg := by
  rw [State.poke_only]
@[simp] theorem State.poke_ctxs (s : State) (l : Loc) (bs : List Nat) : (s.poke l bs).ctxs = s.ctxs := by
  rw [State.poke_only]
@[simp] theorem State.poke_fe (s : State) (l : Loc) (bs : List Nat) : (s.poke l bs).fe = s.fe := by
  rw [State.poke_only]
@[simp] theorem State.poke_se (s : State) (l : Loc) (bs : List Nat) : (s.poke l bs).se = s.se := by
  rw [State.poke_only]
@[simp] theorem State.poke_sc (s : State) (l : Loc) (bs : List Nat) : (s.poke l bs).sc = s.sc := by
  rw [State.poke_only]
@[simp] theorem State.poke_link (s : State) (l : Loc) (bs : List Nat) : (s.poke l bs).link = s.link := by
  rw [State.poke_only]
@[simp] theorem State.poke_eth (s : State) (l : Loc) (bs : List Nat) : (s.poke l bs).eth = s.eth := by
  rw [State.poke_only]
@[simp] theorem State.poke_dom (s : State) (l : Loc) (bs : List Nat) : (s.poke l bs).dom = s.dom := by
  rw [State.poke_only]
@[simp] theorem State.poke_qps (s : State) (l : Loc) (bs : List Nat) : (s.poke l bs).qps = s.qps := by
  rw [State.poke_only]
@[simp] theorem State.poke_ev (s : State) (l : Loc) (bs : List Nat) : (s.poke l bs).ev = s.ev := by
  rw [State.poke_only]
@[simp] theorem State.poke_cap (s : State) (l : Loc) (bs : List Nat) : (s.poke l bs).cap = s.cap := by
  rw [State.poke_only]
@[simp] theorem State.poke_pwr (s : State) (l : Loc) (bs : List Nat) : (s.poke l bs).pwr = s.pwr := by
  rw [State.poke_only]
@[simp] theorem State.poke_pins (s : State) (l : Loc) (bs : List Nat) : (s.poke l bs).pins = s.pins := by
  rw [State.poke_only]
@[simp] theorem State.poke_fit (s : State) (l : Loc) (bs : List Nat) : (s.poke l bs).fit = s.fit := by
  rw [State.poke_only]
@[simp] theorem State.poke_bootSeq (s : State) (l : Loc) (bs : List Nat) : (s.poke l bs).bootSeq = s.bootSeq := by
  rw [State.poke_only]
@[simp] theorem State.poke_fails (s : State) (l : Loc) (bs : List Nat) : (s.poke l bs).fails = s.fails := by
  rw [State.poke_only]
@[simp] theorem State.poke_failsKept (s : State) (l : Loc) (bs : List Nat) : (s.poke l bs).failsKept = s.failsKept := by
  rw [State.poke_only]
@[simp] theorem State.poke_box (s : State) (l : Loc) (bs : List Nat) : (s.poke l bs).box = s.box := by
  rw [State.poke_only]
@[simp] theorem State.poke_stopped (s : State) (l : Loc) (bs : List Nat) : (s.poke l bs).stopped = s.stopped := by
  rw [State.poke_only]
@[simp] theorem State.poke_msix (s : State) (l : Loc) (bs : List Nat) : (s.poke l bs).msix = s.msix := by
  rw [State.poke_only]
@[simp] theorem State.poke_msixPend (s : State) (l : Loc) (bs : List Nat) : (s.poke l bs).msixPend = s.msixPend := by
  rw [State.poke_only]
@[simp] theorem State.poke_sent (s : State) (l : Loc) (bs : List Nat) : (s.poke l bs).sent = s.sent := by
  rw [State.poke_only]

end Sys2Proof.Machine
end

