-- ==== Sys2Proof/Laws/Ops.lean ====
section
/-! SUPPORT. What the shared operations can do, said once for each: registers, events, faults, completion, memory. -/

namespace Sys2Proof.Machine

/-! ## Registers -/

theorem State.rd_wr_self (s : State) (f : Fld) (v : Nat) : (s.wr f v).rd f = v % 2 ^ f.w := by simp [State.rd]

theorem State.rd_wr_of_ne (s : State) (f g : Fld) (v : Nat) (h : g.key ≠ f.key) : (s.wr f v).rd g = s.rd g := by
  simp [State.rd, mapGet_mapSet_of_ne _ _ _ h]

theorem State.get_wr_of_ne (s : State) (f : Fld) (v k : Nat) (h : k ≠ f.key) : mapGet? (s.wr f v).regs k = mapGet? s.regs k := by
  simp [mapGet?_mapSet, h]

theorem State.inc_eq (s : State) (f : Fld) (n : Nat) : s.inc f n = s.wr f (f.counted (s.rd f) n) := rfl

theorem Tile.rd_wr_self (t : Tile) (f : Fld) (v : Nat) : (t.wr f v).rd f = v % 2 ^ f.w := by simp [Tile.rd, Tile.wr]

theorem State.tile_setTile_self (s : State) (t : Nat) (x : Tile) : (s.setTile t x).tile t = x := by simp [State.tile]

theorem State.tile_setTile_of_ne (s : State) {t u : Nat} (x : Tile) (h : u ≠ t) : (s.setTile t x).tile u = s.tile u := by
  simp [State.tile, mapGet_mapSet_of_ne _ _ _ h]

theorem State.ctx_setCtx_self (s : State) (c : Nat) (x : Ctx) : (s.setCtx c x).ctx c = x := by
  simp [State.ctx, mapGet?_mapSet]

theorem State.ctx_setCtx_of_ne (s : State) {c d : Nat} (x : Ctx) (h : d ≠ c) : (s.setCtx c x).ctx d = s.ctx d := by
  simp [State.ctx, mapGet?_mapSet, h]

/-! ## Events -/

/-- An address outside the trace ring in device memory. -/
def State.outsideTrace (s : State) (a : Nat) : Prop := a < s.ev.trcBase ∨ s.ev.trcBase + 64 * 2 ^ s.ev.trcSizeLog2 ≤ a

/-- Nothing but registers, the trace ring with its poison and the event paths differs, and device memory keeps its form. -/
def EventOnly (s t : State) : Prop :=
  ∃ r h p e, t = { s with regs := r, hbm := h, poison := p, ev := e } ∧ e.trcBase = s.ev.trcBase ∧
    e.trcSizeLog2 = s.ev.trcSizeLog2 ∧ (Memory.wf s.hbm = true → Memory.wf h = true) ∧
    ∀ a, s.outsideTrace a → h.rdByte a = s.hbm.rdByte a

theorem EventOnly.refl (s : State) : EventOnly s s := ⟨_, _, _, _, rfl, rfl, rfl, id, fun _ _ => rfl⟩

theorem EventOnly.trans {s t u : State} (h : EventOnly s t) (k : EventOnly t u) : EventOnly s u := by
  obtain ⟨r, m, p, e, rfl, h1, h2, h3, h4⟩ := h
  obtain ⟨r', m', p', e', rfl, k1, k2, k3, k4⟩ := k
  refine ⟨r', m', p', e', rfl, k1.trans h1, k2.trans h2, fun h => k3 (h3 h), fun a ha => ?_⟩
  rw [k4 a (by simpa [State.outsideTrace, h1, h2] using ha), h4 a ha]

theorem EventOnly.wr (s : State) (f : Fld) (v : Nat) : EventOnly s (s.wr f v) :=
  ⟨_, _, _, _, rfl, rfl, rfl, id, fun _ _ => rfl⟩

theorem EventOnly.inc (s : State) (f : Fld) (n : Nat) : EventOnly s (s.inc f n) := EventOnly.wr _ _ _

/-- A change of the event paths that keeps the trace ring's place. -/
theorem EventOnly.ev (s : State) (e : EvState) (h1 : e.trcBase = s.ev.trcBase) (h2 : e.trcSizeLog2 = s.ev.trcSizeLog2) :
    EventOnly s { s with ev := e } := ⟨_, _, _, _, rfl, h1, h2, id, fun _ _ => rfl⟩

theorem EventOnly.ite {s t u : State} {p : Prop} [Decidable p] (h : EventOnly s t) (k : EventOnly s u) :
    EventOnly s (if p then t else u) := by split <;> assumption

theorem Event.bytes_length_le (e : Event) (p : Nat) : (e.bytes p).length = 64 := by
  simp [Event.bytes, leBytes_length]

theorem State.traceEvent_only (s : State) (e : Event) : EventOnly s (s.traceEvent e) := by
  unfold State.traceEvent
  extract_lets _ s1 head size s2 at_ s3
  refine EventOnly.trans (EventOnly.ev s _ rfl rfl : EventOnly s s1) ?_
  split
  · have h2 : EventOnly s1 s2 := EventOnly.ite (EventOnly.inc _ _ _) (EventOnly.refl _)
    refine h2.trans (EventOnly.trans (t := s3) ⟨s2.regs, _, _, s2.ev, rfl, rfl, rfl, Memory.wf_wrBytes _ _ _, fun a ha => ?_⟩
      (EventOnly.wr _ _ _))
    apply Memory.rdByte_wrBytes_outside
    rw [Event.bytes_length_le]
    have hs : size = 2 ^ s2.ev.trcSizeLog2 := by
      obtain ⟨_, _, _, _, h, _, h', _⟩ := h2
      rw [h]; simp [h', size]
    have hlt : head % size < 2 ^ s2.ev.trcSizeLog2 := hs ▸ Nat.mod_lt _ (hs ▸ Nat.two_pow_pos _)
    unfold State.outsideTrace at ha
    simp only [at_]
    omega
  · exact EventOnly.refl _

theorem State.post_only (s : State) (e : Event) : EventOnly s (s.post e) :=
  EventOnly.ite (EventOnly.refl _) (EventOnly.ev _ _ rfl rfl)

theorem State.coalesce_only (s : State) (e : Event) : EventOnly s (s.coalesce e) := by
  unfold State.coalesce
  split
  · exact EventOnly.refl _
  · split
    · extract_lets s1
      have h : EventOnly s s1 := State.post_only _ _
      exact EventOnly.ite (h.trans (EventOnly.ev _ _ rfl rfl)) h
    · extract_lets p upd
      exact EventOnly.ite ((State.post_only s _).trans (EventOnly.ev _ _ rfl rfl)) (EventOnly.ev _ _ rfl rfl)

theorem State.queueAlarm_only (s : State) (e : Event) : EventOnly s (s.queueAlarm e) := by
  unfold State.queueAlarm
  extract_lets _ fold
  have hf : ∀ p, EventOnly s (fold p) := fun p => EventOnly.ev _ _ rfl rfl
  exact EventOnly.ite (hf _) (EventOnly.ite (EventOnly.ev _ _ rfl rfl) (EventOnly.ite (hf _) (EventOnly.ev _ _ rfl rfl)))

theorem State.setBits_only (s : State) (fs : List Fld) : EventOnly s (s.setBits fs) := by
  induction fs generalizing s with
  | nil => exact EventOnly.refl _
  | cons f fs ih => exact (EventOnly.wr s f 1).trans (ih _)

/-- What raising an event can do. -/
theorem State.raise_only (s : State) (typ cls subsys src : Nat) (ctx : Option Nat) (payload : List (Nat × Nat)) :
    EventOnly s (s.raise typ cls subsys src ctx payload) := by
  unfold State.raise
  extract_lets cls e s1 _ s2 s3 s4 _ s5 r _ s6 r2 s7
  have h1 : EventOnly s s1 := EventOnly.inc _ _ _
  have h2 : EventOnly s s2 := h1.trans (EventOnly.ev _ _ rfl rfl)
  have h3 : EventOnly s s3 := h2.trans (State.setBits_only _ _)
  have h4 : EventOnly s s4 := EventOnly.ite (h3.trans (State.traceEvent_only _ _)) h3
  have h5 : EventOnly s s5 := EventOnly.ite (h4.trans (EventOnly.ev _ _ rfl rfl)) h4
  have h6 : EventOnly s s6 := h5.trans (EventOnly.ev _ _ rfl rfl)
  have h7 : EventOnly s s7 := h5.trans (EventOnly.ev _ _ rfl rfl)
  refine EventOnly.ite (h5.trans (State.queueAlarm_only _ _)) (EventOnly.ite ?_ (EventOnly.ite ?_ ?_))
  · split
    · exact h6.trans (State.post_only _ _)
    · exact h6
  · split
    · exact h7.trans (State.post_only _ _)
    · exact h7
  · exact h5.trans (State.coalesce_only _ _)

theorem State.note_only (s : State) (typ subsys src : Nat) (ctx : Option Nat) (payload : List (Nat × Nat)) :
    EventOnly s (s.note typ subsys src ctx payload) := State.raise_only _ _ _ _ _ _ _

theorem State.tracePoint_only (s : State) (typ subsys src : Nat) (payload : List Nat) :
    EventOnly s (s.tracePoint typ subsys src payload) := EventOnly.ite (State.traceEvent_only _ _) (EventOnly.refl _)

theorem State.deny_only (s : State) (a r : Nat) : EventOnly s (s.deny a r) :=
  ((((EventOnly.inc s _ _).trans (EventOnly.wr _ _ _)).trans (EventOnly.wr _ _ _)).trans (EventOnly.wr _ _ _)).trans
    (State.note_only _ _ _ _ _ _)

theorem State.lockViolation_only (s : State) (src off v : Nat) : EventOnly s (s.lockViolation src off v) :=
  ((((EventOnly.wr s _ _).trans (EventOnly.wr _ _ _)).trans (EventOnly.inc _ _ _)).trans (EventOnly.wr _ _ _)).trans
    (State.note_only _ _ _ _ _ _)

/-! ## Faults of an op and completion -/

/-- Nothing but registers, the trace ring with its poison, the event paths, tiles apart from their SRAM bytes, contexts, the front end, the
stream engine, the step controller, pending interrupts and what is sent differs; every memory keeps its form. -/
def FaultOnly (s t : State) : Prop :=
  ∃ r h p e ti cx f st sc mp se, t = { s with regs := r, hbm := h, poison := p, ev := e, tiles := ti, ctxs := cx, fe := f, se := st, sc := sc, msixPend := mp, sent := se } ∧
    e.trcBase = s.ev.trcBase ∧ e.trcSizeLog2 = s.ev.trcSizeLog2 ∧
    (Memory.wf s.hbm = true → Memory.wf h = true) ∧ (∀ a, s.outsideTrace a → h.rdByte a = s.hbm.rdByte a) ∧
    (∀ k, (mapGet ti Tile.reset k).sram = (s.tile k).sram) ∧
    (s.sramWf = true → (ti.all fun p => Memory.wf p.2.sram) = true)

theorem EventOnly.fault {s t : State} (h : EventOnly s t) : FaultOnly s t := by
  obtain ⟨r, m, p, e, rfl, h1, h2, h3, h4⟩ := h
  exact ⟨r, m, p, e, s.tiles, s.ctxs, s.fe, s.se, s.sc, s.msixPend, s.sent, rfl, h1, h2, h3, h4, fun _ => rfl, id⟩

theorem FaultOnly.refl (s : State) : FaultOnly s s := (EventOnly.refl s).fault

theorem FaultOnly.trans {s t u : State} (h : FaultOnly s t) (k : FaultOnly t u) : FaultOnly s u := by
  obtain ⟨r, m, p, e, ti, cx, f, st, sc, mp, se, rfl, h1, h2, h3, h4, h5, h6⟩ := h
  obtain ⟨r', m', p', e', ti', cx', f', st', sc', mp', se', rfl, k1, k2, k3, k4, k5, k6⟩ := k
  refine ⟨r', m', p', e', ti', cx', f', st', sc', mp', se', rfl, k1.trans h1, k2.trans h2, fun h => k3 (h3 h), fun a ha => ?_,
    fun n => (k5 n).trans (h5 n), fun h => k6 (h6 h)⟩
  rw [k4 a (by simpa [State.outsideTrace, h1, h2] using ha), h4 a ha]

theorem FaultOnly.ite {s t u : State} {p : Prop} [Decidable p] (h : FaultOnly s t) (k : FaultOnly s u) :
    FaultOnly s (if p then t else u) := by split <;> assumption

/-- A change of contexts, front end, stream engine, step controller, pending interrupts or what is sent. -/
theorem FaultOnly.plain (s : State) (cx : List (Nat × Ctx)) (f : FrontEnd) (st : StreamEng) (sc : StepState) (mp : Nat)
    (se : List Sent) : FaultOnly s { s with ctxs := cx, fe := f, se := st, sc := sc, msixPend := mp, sent := se } :=
  ⟨s.regs, s.hbm, s.poison, s.ev, s.tiles, cx, f, st, sc, mp, se, rfl, rfl, rfl, id, fun _ _ => rfl, fun _ => rfl, id⟩

theorem State.setCtx_only (s : State) (c : Nat) (x : Ctx) : FaultOnly s (s.setCtx c x) := FaultOnly.plain s _ _ _ _ _ _
theorem State.setBufs_only (s : State) (bs : List Buf) : FaultOnly s (s.setBufs bs) := FaultOnly.plain s _ _ _ _ _ _
theorem State.setFe_only (s : State) (f : FrontEnd → FrontEnd) : FaultOnly s (s.setFe f) := FaultOnly.plain s _ _ _ _ _ _
theorem State.setSc_only (s : State) (f : StepState → StepState) : FaultOnly s (s.setSc f) := FaultOnly.plain s _ _ _ _ _ _
theorem State.send_only (s : State) (m : Sent) : FaultOnly s (s.send m) := FaultOnly.plain s _ _ _ _ _ _
theorem State.modOp_only (s : State) (k : OpKey) (f : Op → Op) : FaultOnly s (s.modOp k f) := State.setBufs_only _ _

/-- Tiles changed by a function that keeps their SRAM. -/
theorem FaultOnly.tiles (s : State) (f : Nat → Tile → Tile) (hf : ∀ n t, (f n t).sram = t.sram) :
    FaultOnly s { s with tiles := mapVals f s.tiles } := by
  refine ⟨s.regs, s.hbm, s.poison, s.ev, _, s.ctxs, s.fe, s.se, s.sc, s.msixPend, s.sent, rfl, rfl, rfl, id, fun _ _ => rfl, fun k => ?_,
    fun h => ?_⟩
  · unfold State.tile mapGet
    rw [mapGet?_mapVals]
    cases mapGet? s.tiles k <;> simp [hf]
  · simpa [State.sramWf, mapVals, hf] using h

theorem State.setTile_only (s : State) (t : Nat) (x : Tile) (hx : x.sram = (s.tile t).sram) : FaultOnly s (s.setTile t x) := by
  refine ⟨s.regs, s.hbm, s.poison, s.ev, _, s.ctxs, s.fe, s.se, s.sc, s.msixPend, s.sent, rfl, rfl, rfl, id, fun _ _ => rfl, fun k => ?_,
    fun h => ?_⟩
  · by_cases hk : k = t
    · subst hk; simp [hx]
    · rw [mapGet_mapSet_of_ne _ _ _ hk]; rfl
  · simp only [State.sramWf, List.all_eq_true] at h ⊢
    intro p hp
    rcases mem_mapSet hp with hp | hp
    · subst hp
      simp only [hx, State.tile, mapGet]
      cases hg : mapGet? s.tiles t with
      | none => rfl
      | some y =>
        have : ∀ (m : List (Nat × Tile)), mapGet? m t = some y → (t, y) ∈ m := by
          intro m
          induction m with
          | nil => simp
          | cons q m ih =>
            obtain ⟨j, b⟩ := q
            simp only [mapGet?]
            split
            · intro h; cases h; subst_vars; simp
            · intro h; exact List.mem_cons_of_mem _ (ih h)
        exact h _ (this _ hg)
    · exact h p hp

theorem Tile.discard_sram (t : Tile) (c : Nat) : (t.discard c).sram = t.sram := by
  unfold Tile.discard; extract_lets mine; rw [apply_ite Tile.sram]; exact ite_self _

theorem Tile.finish_sram (t : Tile) (k : OpKey) (config : OpKey → Bool) : (t.finish k config).sram = t.sram := by
  unfold Tile.finish; split <;> rfl

theorem State.msixSend_only (s : State) (v : Nat) : FaultOnly s (s.msixSend v) :=
  FaultOnly.ite (FaultOnly.plain s _ _ _ _ _ _) (State.send_only _ _)

theorem State.notify_only (s : State) (c : Nat) : FaultOnly s (s.notify c) :=
  FaultOnly.ite ((EventOnly.wr _ _ _).fault.trans (State.msixSend_only _ _)) (FaultOnly.refl _)

theorem State.unpins_only (s : State) (l : List Nat) : FaultOnly s (l.foldl State.unpin s) := by
  induction l generalizing s with
  | nil => exact FaultOnly.refl _
  | cons x l ih => exact ((EventOnly.wr s _ _).fault : FaultOnly s (s.unpin x)).trans (ih _)

theorem State.stallsEnd_only (s : State) (l : List (Option Nat)) : FaultOnly s (l.foldl State.stallEnds s) := by
  induction l generalizing s with
  | nil => exact FaultOnly.refl _
  | cons x l ih =>
    have h : FaultOnly s (s.stallEnds x) := by
      unfold State.stallEnds
      split
      · exact (EventOnly.inc _ _ _).fault
      · exact FaultOnly.refl _
    exact h.trans (ih _)

/-- What a discard order can do. -/
theorem State.discard_only (s : State) (c : Nat) : FaultOnly s (s.discard c) := by
  unfold State.discard
  extract_lets n _ s1 s1' s2 s3 s4 _ s5 dug
  have h1 : FaultOnly s s1 := State.unpins_only _ _
  have h1' : FaultOnly s s1' := h1.trans (State.stallsEnd_only _ _)
  have h2 : FaultOnly s s2 := h1'.trans ((EventOnly.inc _ _ _).fault.trans (State.setCtx_only _ _ _))
  have h3 : FaultOnly s s3 := h2.trans (FaultOnly.tiles _ _ fun _ t => Tile.discard_sram t c)
  have h4 : FaultOnly s s4 := h3.trans (State.setBufs_only _ _)
  have h5 : FaultOnly s s5 := h4.trans (FaultOnly.plain _ _ _ _ _ _ _)
  exact h5.trans (FaultOnly.plain _ _ _ _ _ _ _)

theorem State.commitDoubt_only (s : State) : FaultOnly s s.commitDoubt := by
  unfold State.commitDoubt
  split
  · exact FaultOnly.refl _
  · extract_lets _ s'
    have h : FaultOnly s s' := FaultOnly.plain _ _ _ _ _ _ _
    exact FaultOnly.ite (h.trans (((EventOnly.wr _ _ _).trans (EventOnly.wr _ _ _)).trans (State.raise_only _ _ _ _ _ _ _)).fault) h

theorem State.enterError_only (s : State) (c q l : Nat) : FaultOnly s (s.enterError c q l) := by
  unfold State.enterError
  split
  · extract_lets s1 s2 doubt s3 s4
    have h1 : FaultOnly s s1 := ((EventOnly.wr s _ _).trans (EventOnly.wr _ _ _)).fault
    have h2 : FaultOnly s s2 := h1.trans (State.setCtx_only _ _ _)
    have h3 : FaultOnly s s3 := h2.trans (State.discard_only _ _)
    have h4 : FaultOnly s s4 := FaultOnly.ite (h3.trans (State.commitDoubt_only _)) h3
    exact h4.trans (State.notify_only _ _)
  · exact FaultOnly.refl _

theorem State.fault1_only (s : State) (typ subsys src c q l : Nat) (p : List (Nat × Nat)) :
    FaultOnly s (s.fault1 typ subsys src c q l p) := by
  unfold State.fault1
  extract_lets s1 s2
  have h1 : FaultOnly s s1 := (State.raise_only _ _ _ _ _ _ _).fault
  have h2 : FaultOnly s s2 := FaultOnly.ite (h1.trans (EventOnly.wr _ _ _).fault) h1
  exact h2.trans (State.enterError_only _ _ _ _)

theorem State.settleDeps_only (n : Nat) (s : State) : FaultOnly s (State.settleDeps n s) := by
  induction n generalizing s with
  | zero => exact FaultOnly.refl _
  | succ n ih =>
    simp only [State.settleDeps]
    split
    · exact FaultOnly.refl _
    · exact (State.fault1_only _ _ _ _ _ _ _ _).trans (ih _)

/-- What a class Q fault on a context can do. -/
theorem State.faultQ_only (s : State) (typ subsys src c : Nat) (p : List (Nat × Nat)) :
    FaultOnly s (s.faultQ typ subsys src c p) := (State.fault1_only _ _ _ _ _ _ _ _).trans (State.settleDeps_only _ _)

theorem State.opFault_only (s : State) (k : OpKey) (typ subsys src : Nat) (p : List (Nat × Nat)) :
    FaultOnly s (s.opFault k typ subsys src p) := State.faultQ_only _ _ _ _ _ _

theorem State.parseFail_only (s : State) (c q code off id : Nat) : FaultOnly s (s.parseFail c q code off id) := by
  unfold State.parseFail
  extract_lets typ s1 s2
  have h1 : FaultOnly s s1 := ((EventOnly.inc s _ _).trans (EventOnly.wr _ _ _)).fault
  exact (h1.trans (State.fault1_only _ _ _ _ _ _ _ _)).trans (State.settleDeps_only _ _)

theorem State.retire_only (n : Nat) (s : State) (c : Nat) : FaultOnly s (State.retire n s c) := by
  induction n generalizing s with
  | zero => exact FaultOnly.refl _
  | succ n ih =>
    simp only [State.retire]
    split
    · exact FaultOnly.refl _
    · exact FaultOnly.ite (((State.setBufs_only _ _).trans (EventOnly.wr _ _ _).fault).trans (ih _)) (FaultOnly.refl _)

theorem State.releasePairs_only (s : State) (c q : Nat) : FaultOnly s (s.releasePairs c q) := by
  unfold State.releasePairs
  split
  · exact FaultOnly.refl _
  · exact FaultOnly.plain s s.ctxs s.fe _ s.sc s.msixPend s.sent

/-- What completing an op can do. -/
theorem State.completeOp_only (s : State) (k : OpKey) : FaultOnly s (s.completeOp k) := by
  unfold State.completeOp
  split
  · exact FaultOnly.refl _
  · extract_lets s1 s2 _ s3 s4 s5 s6
    have h1 : FaultOnly s s1 := State.modOp_only _ _ _
    have h2 : FaultOnly s s2 := h1.trans (FaultOnly.tiles _ _ fun _ t => Tile.finish_sram t k _)
    have h3 : FaultOnly s s3 := h2.trans (FaultOnly.plain _ _ _ _ _ _ _)
    have h4 : FaultOnly s s4 := h3.trans (State.releasePairs_only _ _ _)
    have h5 : FaultOnly s s5 := h4.trans (State.tracePoint_only _ _ _ _ _).fault
    have h6 : FaultOnly s s6 := h5.trans (State.retire_only _ _ _)
    exact (h6.trans (State.setBufs_only _ _ : FaultOnly s6 s6.markWaits)).trans (State.notify_only _ _)

theorem State.ueAddr_only (s : State) (p : Nat) : EventOnly s (s.ueAddr p) :=
  (EventOnly.wr s _ _).trans (EventOnly.wr _ _ _)

theorem State.opUe_only (s : State) (k : OpKey) (p : Nat) : FaultOnly s (s.opUe k p) :=
  ((EventOnly.wr s _ _).trans (State.ueAddr_only _ _)).fault.trans (State.opFault_only _ _ _ _ _ _)

theorem State.streamNack_only (s : State) (k : OpKey) (code addr : Nat) : FaultOnly s (s.streamNack k code addr) :=
  State.opFault_only _ _ _ _ _ _

/-- A refused access is a fault of the op. -/
theorem State.refuse_only {s t : State} {k : OpKey} {a : Acc} (h : s.refuse k a = some t) : FaultOnly s t := by
  unfold State.refuse at h
  split at h
  · cases h
  · split at h
    · split at h
      · cases h
      · rw [← Option.some.inj h]; exact (State.deny_only _ _ _).fault.trans (State.streamNack_only _ _ _ _)
    · split at h
      · rw [← Option.some.inj h]; exact State.opFault_only _ _ _ _ _ _
      · split at h
        · split at h
          · rw [← Option.some.inj h]; exact (State.ueAddr_only _ _).fault.trans (State.opFault_only _ _ _ _ _ _)
          · cases h
        · split at h
          · rw [← Option.some.inj h]; exact State.opUe_only _ _ _
          · cases h

theorem State.refused_only {s t : State} {k : OpKey} {as : List Acc} (h : s.refused k as = some t) : FaultOnly s t := by
  induction as with
  | nil => cases h
  | cons a as ih =>
    simp only [State.refused] at h
    split at h
    · rename_i h'; rw [← Option.some.inj h]; exact State.refuse_only h'
    · exact ih h

/-! ## Device memory -/

/-- Recording a failure changes the list of failures alone. -/
theorem State.recordFail_only (s : State) (k t i d : Nat) : ∃ f, s.recordFail k t i d = { s with fails := f } := by
  unfold State.recordFail State.recordFailAt; split
  · exact ⟨s.fails, rfl⟩
  · exact ⟨_, rfl⟩

theorem State.rowWorn_only (s : State) (st row : Nat) : ∃ f, s.rowWorn st row = { s with fails := f } := by
  unfold State.rowWorn
  split
  · exact ⟨s.fails, rfl⟩
  · split
    · exact State.recordFail_only _ _ _ _ _
    · exact State.recordFail_only _ _ _ _ _

/-- What an error found by a read can do: counters, poison, the rows with errors, failures, an event. -/
theorem State.memErr_only (s : State) (e : MemErr) :
    ∃ c u f, EventOnly { s with ceRows := c, ueRows := u, fails := f } (s.memErr e) := by
  unfold State.memErr
  extract_lets sec st row c1 c2 c3 u1 u2 u3
  split
  · exact ⟨s.ceRows, s.ueRows, s.fails, EventOnly.refl _⟩
  · obtain ⟨c, h2⟩ : ∃ c, c2 = { c1 with ceRows := c } := by
      simp only [c2]; split
      · exact ⟨c1.ceRows, rfl⟩
      · exact ⟨_, rfl⟩
    obtain ⟨f, h3⟩ : ∃ f, c3 = { c2 with fails := f } := by
      simp only [c3]; split
      · exact State.rowWorn_only _ _ _
      · exact ⟨c2.fails, rfl⟩
    refine ⟨c, s.ueRows, f, EventOnly.trans (t := c3) ?_ (State.note_only _ _ _ _ _ _)⟩
    rw [h3, h2]
    exact ⟨c1.regs, _, _, _, rfl, rfl, rfl, id, fun _ _ => rfl⟩
  · split
    · exact ⟨s.ceRows, s.ueRows, s.fails, EventOnly.refl _⟩
    · obtain ⟨u, h2⟩ : ∃ u, u3 = { u2 with ueRows := u } := by
        simp only [u3]; split
        · exact ⟨u2.ueRows, rfl⟩
        · exact ⟨_, rfl⟩
      split
      · obtain ⟨f, h3⟩ := State.recordFail_only u3 3 Ev.MEM_UE st 0
        refine ⟨s.ceRows, u, f, ?_⟩
        rw [h3, h2]
        exact ⟨u1.regs, _, _, _, rfl, rfl, rfl, id, fun _ _ => rfl⟩
      · refine ⟨s.ceRows, u, s.fails, ?_⟩
        rw [h2]
        exact ⟨u1.regs, _, _, _, rfl, rfl, rfl, id, fun _ _ => rfl⟩

theorem State.memErrs_only (s : State) (es : List MemErr) :
    ∃ c u f, EventOnly { s with ceRows := c, ueRows := u, fails := f } (s.memErrs es) := by
  unfold State.memErrs
  induction es generalizing s with
  | nil => exact ⟨s.ceRows, s.ueRows, s.fails, EventOnly.refl _⟩
  | cons e es ih =>
    obtain ⟨c, u, f, r, h, p, ev, h0, h1, h2, h3, h4⟩ := State.memErr_only s e
    obtain ⟨c', u', f', r', h', p', ev', k0, k1, k2, k3, k4⟩ := ih (s.memErr e)
    refine ⟨c', u', f', r', h', p', ev', ?_, ?_, ?_, ?_, ?_⟩
    · rw [List.foldl_cons, k0, h0]
    · rw [k1, h0]; exact h1
    · rw [k2, h0]; exact h2
    · rw [h0] at k3; exact fun w => k3 (h3 w)
    · rw [h0] at k4
      intro a ha
      rw [k4 a (by simpa [State.outsideTrace, h1, h2] using ha), h4 a ha]

/-- A write to device memory keeps the canonical form, changes no byte outside its range, and nothing but memory and
poison. -/
theorem State.devWrite_only (s : State) (a : Nat) (bs : List Nat) :
    ∃ h p, (s.devWrite a bs).1 = { s with hbm := h, poison := p } ∧ (Memory.wf s.hbm = true → Memory.wf h = true) ∧
      ∀ i, (i < a ∨ a + bs.length ≤ i) → h.rdByte i = s.hbm.rdByte i := by
  unfold State.devWrite
  extract_lets n full touch bad hbm
  refine ⟨hbm, _, rfl, ?_, ?_⟩
  · intro hw
    simp only [hbm]
    split
    · exact Memory.wf_wrBytes _ _ _ hw
    · have : ∀ (l : List Nat) (m : Memory), Memory.wf m = true → Memory.wf (l.foldl (fun m i =>
          if bad.contains ((a + i) / 32 * 32) then m else m.wrByte (a + i) (BitVec.ofNat 8 (nth bs 0 i))) m) = true := by
        intro l
        induction l with
        | nil => exact fun _ h => h
        | cons x l ih => 
          intro m h
          rw [List.foldl_cons]
          apply ih
          split
          · exact h
          · exact Memory.wf_wrByte _ _ _ h
      exact this _ _ hw
  · intro i hi
    simp only [hbm]
    split
    · exact Memory.rdByte_wrBytes_outside _ _ _ _ hi
    · have : ∀ (l : List Nat) (m : Memory), (∀ x ∈ l, x < n) → Memory.rdByte (l.foldl (fun m i =>
          if bad.contains ((a + i) / 32 * 32) then m else m.wrByte (a + i) (BitVec.ofNat 8 (nth bs 0 i))) m) i = m.rdByte i := by
        intro l
        induction l with
        | nil => exact fun _ _ => rfl
        | cons x l ih =>
          intro m h
          have hx := h x (by simp)
          rw [List.foldl_cons, ih _ (fun y hy => h y (by simp [hy]))]
          split
          · rfl
          · rw [Memory.rdByte_wrByte, if_neg (by omega)]
      exact this _ _ (fun x hx => by simpa using hx)

/-- A write at a place keeps every memory's form and changes memory and poison alone. -/
theorem State.write_only (s : State) (l : Loc) (bs : List Nat) :
    ∃ h p m, s.write l bs = { s with hbm := h, poison := p, hostMem := m } ∧ (Memory.wf s.hbm = true → Memory.wf h = true) ∧
      (Memory.wf s.hostMem = true → Memory.wf m = true) := by
  unfold State.write
  split
  · exact ⟨s.hbm, s.poison, _, rfl, id, Memory.wf_wrBytes _ _ _⟩
  · obtain ⟨h, p, h1, h2, _⟩ := State.devWrite_only s l.addr bs
    exact ⟨h, p, s.hostMem, h1, h2, id⟩

/-! ## Ops -/

theorem Buf.op?_map (b : Buf) (id id' : Nat) (f : Op → Op) (hf : ∀ o, (f o).id = o.id) :
    Buf.op? { b with ops := b.ops.map fun o => if o.id = id then f o else o } id' =
      if id' = id then (b.op? id').map f else b.op? id' := by
  unfold Buf.op?
  simp only
  induction b.ops with
  | nil => simp
  | cons o os ih =>
    simp only [List.map_cons, List.find?_cons]
    grind

/-- The op that a change names is changed, if the change keeps its ID. -/
theorem State.opAt_modOp (s : State) (k : OpKey) (f : Op → Op) (hf : ∀ o, (f o).id = o.id) :
    (s.modOp k f).opAt k = (s.opAt k).map f := by
  unfold State.opAt State.buf? State.modOp State.setBufs
  simp only
  induction s.fe.bufs with
  | nil => rfl
  | cons b bs ih =>
    simp only [List.map_cons, List.find?_cons]
    by_cases h : b.ctx = k.ctx ∧ b.seq = k.seq
    · have hm := Buf.op?_map b k.id k.id f hf
      rw [if_pos rfl] at hm
      simpa [h.1, h.2] using hm
    · have : ∀ x, (decide (b.ctx = k.ctx) && decide (b.seq = k.seq)) = x → x = false := by
        intro x hx; subst hx; simpa using h
      simp only [this _ rfl]
      simpa [this _ rfl] using ih

/-- An op whose effect is whole stands as executed. -/
theorem State.executed_opHas (s : State) (k : OpKey) (o : Op) (h : s.opAt k = some o) : (s.executed k).opHas k .executed := by
  unfold State.opHas State.executed
  rw [State.opAt_modOp s k, h]
  · rfl
  · exact fun _ => rfl

end Sys2Proof.Machine
end

