-- ==== Sys2Proof/Tests/Slice0.lean ====
section
/-! SUPPORT. Witnesses: for each statement with hypotheses, states and operands that meet them; an ill-formed command for each
check of WellFormed; a few examples of the spec. -/

namespace Sys2Proof.Tests

open Sys2Proof Sys2Proof.Machine

set_option Elab.async false

/-! ## Small states -/

/-- Register fields given values. -/
def set (s : State) (l : List (Fld × Nat)) : State := l.foldl (fun s p => s.wr p.1 p.2) s

/-- The block in service: booted, one DMA window over the first 16 MiB of host memory, context 1 ACTIVE. -/
def up : State :=
  (set { State.reset with pins := ⟨true, true, true, false, 0⟩ }
    [(Reg.FIT_STATUS.VALID, 1), (Reg.BOOT_STATUS.STAGE, 4), (Reg.MB_STATUS.FW_READY, 1), (Reg.REF_WIN_CTRL.PAGES 0, 0xFFF),
     (Reg.REF_WIN_CTRL.RD 0, 1), (Reg.REF_WIN_CTRL.WR 0, 1)]).setCtx 1
    { Ctx.reset 1 with st := .active, rank := 2, outstanding := 16 }

def aEvent : Event := ⟨Ev.MEM_CE, 0, 0, 6, 2, false, 0, 5, 0, 0, []⟩

/-! ## The whole block -/

theorem witness_empty_queue : State.reset.pending = [] := rfl
theorem witness_invariants : State.reset.memoriesWf = true ∧ State.reset.holdsNamed = true ∧
    (match step State.reset with
      | .next t => decide (t = { State.reset with now := 1 })
      | _ => false) = true := ⟨by decide +kernel, by decide +kernel, by decide +kernel⟩
theorem witness_frames : exec (.hbmRefresh 0 0) up = .next up ∧ (Instr.hbmRefresh 0 0).wf = true ∧ up.holdsNamed = true ∧
    ([Part.data, .hbm, .host, .sram, .tiles, .poison, .errors, .contexts, .frontEnd, .streams, .step, .configs, .link, .eth, .domain,
      .qps, .sent, .events, .captain, .power, .pins, .fitness, .failures, .box, .halt, .msix, .pendingBits, .window, .written,
      .regs Blk.GLOBAL].all fun p => leaves (.hbmRefresh 0 0) p) = true :=
  ⟨rfl, by decide +kernel, by decide +kernel, by decide +kernel⟩

/-! ## Registers and host interface -/

theorem witness_register_widths : (4 = 4 ∨ 4 = 8) ∧ 4 % 4 = 0 ∧ ¬((4 = 4 ∨ 4 = 8) ∧ 6 % 4 = 0) ∧ ¬((2 = 4 ∨ 2 = 8) ∧ 6 % 2 = 0) := by
  decide
/-- MEM_STATUS-like registers with RO, RW, CNT, W1C, WO1 and HWU fields. -/
theorem witness_field_types : ∀ off ∈ [256, 264, 272, 33554432, 33554448, 2097176, 33554496, 20971520],
    PlainRegister up .host off ∧ ∀ f ∈ fieldsAt regRows off, up.locked (hostWrite 7) f = false ∧ (f.ty = .hwu → (hostWrite 7).sameBits f = 0) := by
  decide +kernel
def written : State := { up with wo1 := [(Reg.REF_WIN_BASE.BASE 0).key, (Reg.REF_WIN_BASE.BASE 15).key] }
theorem witness_dma_base : up.valid = true ∧ (∀ k ∈ [0, 15], up.wo1.contains (Reg.REF_WIN_BASE.BASE k).key = false) ∧
    written.valid = true ∧ ∀ k ∈ [0, 15], written.wo1.contains (Reg.REF_WIN_BASE.BASE k).key = true := by decide +kernel
def windows : State := { up with ev := { up.ev with lock := ⟨true, some aEvent, 0⟩, deny := ⟨true, none, 0⟩, wins := [⟨1, 2, false, 0, none, 0⟩] } }
def windows2 : State := { up with ev := { up.ev with lock := ⟨true, none, 0⟩, deny := ⟨true, some aEvent, 0⟩, wins := [⟨1, 2, false, 0, some aEvent, 0⟩] } }
theorem witness_windows : windows.ev.lock = ⟨true, some aEvent, 0⟩ ∧ windows.ev.deny.isOpen = true ∧ windows.ev.deny.pend = none ∧
    windows.muted = false ∧ windows2.ev.lock.isOpen = true ∧ windows2.ev.lock.pend = none ∧ windows2.ev.deny = ⟨true, some aEvent, 0⟩ ∧
    windows2.muted = false ∧
    windows.ev.wins.find? (fun w => w.typ = 1 && w.src = 2 && w.hasCtx = false && w.ctx = 0) = some ⟨1, 2, false, 0, none, 0⟩ ∧
    windows2.ev.wins.find? (fun w => w.typ = 1 && w.src = 2 && w.hasCtx = false && w.ctx = 0) = some ⟨1, 2, false, 0, some aEvent, 0⟩ := by
  decide +kernel
/-- Windows that end after 1 ns. -/
def windowsLater : State := { up with ev := { up.ev with lock := ⟨true, none, 1⟩, deny := ⟨true, none, 1⟩ } }
theorem witness_windows_times : (∀ s ∈ [windows, windows2], s.ev.lock.till ≤ s.now ∧ s.ev.deny.till ≤ s.now ∧
    ∀ w ∈ s.ev.wins, w.till ≤ s.now) ∧ windowsLater.now < windowsLater.ev.lock.till ∧ windowsLater.now < windowsLater.ev.deny.till := by
  decide +kernel
def spoilt : State := { up with poison := [64] }
theorem witness_bar4 : spoilt.valid = true ∧ (spoilt.reserve < 0xBF80000000 - 4 + 8 ∧ 0 + 32 ≤ spoilt.reserve) ∧
    spoilt.poisonIn 0 32 = none ∧ spoilt.poisonIn 60 8 = some 64 ∧
    (∀ p ∈ spoilt.poison, p + 32 ≤ 64 ∨ 64 + 32 ≤ p ∨ (64 ≤ p ∧ p + 32 ≤ 64 + 32)) := by decide +kernel
theorem witness_bar4_settled (a : Nat) : spoilt.unsettled ⟨false, a⟩ = false := by
  have h : spoilt.openOps = [] := by decide +kernel
  simp [State.unsettled, h]
def unmet : State := set up [(Reg.SB_NOTIFY.TARGET 1, 9)]
theorem witness_notify : up.valid = true ∧ bitsOf 0x42 6 1 = 1 ∧ up.rd (Reg.SB_NOTIFY.TARGET 1) ≤ up.rd (Reg.SB_DONE_SEQ.SEQ 1) ∧
    up.msixMasked 2 = true ∧ (unmet.rd (Reg.SB_DONE_SEQ.SEQ 1) < unmet.rd (Reg.SB_NOTIFY.TARGET 1) ∧ (unmet.ctx 1).st = .active) ∧
    { up with msix := [(5, 0)] }.msixMasked 2 = false := by decide +kernel
theorem witness_ring_enables : up.valid = true ∧ 13 < 2 ^ 13 ∧ bitsOf 13 0 1 = 1 ∧ up.on Reg.EVQ_CTRL.EN = false ∧
    up.on Reg.FLT_TRC_CTRL.EN = false := by decide +kernel

/-! ## Events -/

def ringUp : State := { set up [(Reg.EVQ_CTRL.EN, 1), (Reg.EVQ_CTRL.ALARM_RESV, 1), (Reg.REF_EVQ_CTRL.PAGES, 1)] with
  ev := { up.ev with posted := [aEvent] } }
def ringAlarm : State := { ringUp with ev := { ringUp.ev with alarms := [⟨{ aEvent with typ := Ev.STACK_FAIL }, false, false, false⟩] } }
def ringFull : State := set ringUp [(Reg.EVQ_HEAD.HEAD, 1023)]
def ringBarred : State := set ringUp [(Reg.REF_EVQ_BASE.BASE, 9)]
theorem witness_event_records : 0 < ringAlarm.evqFree ∧
    ringAlarm.ev.alarms.find? (fun a => !a.ring) = some ⟨{ aEvent with typ := Ev.STACK_FAIL }, false, false, false⟩ ∧
    (ringAlarm.evqBound (evqPlace ringAlarm) && ringAlarm.windowAdmits (evqPlace ringAlarm) 64 true) = true ∧
    (∀ s ∈ [ringUp, ringFull, ringBarred], s.ev.alarms.find? (fun a => !a.ring) = none ∧ s.muted = false ∧ s.ev.lost.1 = 0 ∧
      s.ev.posted = [aEvent]) ∧
    ringUp.rd Reg.EVQ_CTRL.ALARM_RESV < ringUp.evqFree ∧
    (ringUp.evqBound (evqPlace ringUp) && ringUp.windowAdmits (evqPlace ringUp) 64 true) = true ∧
    ringBarred.rd Reg.EVQ_CTRL.ALARM_RESV < ringBarred.evqFree ∧
    (ringBarred.evqBound (evqPlace ringBarred) && ringBarred.windowAdmits (evqPlace ringBarred) 64 true) = false ∧
    ringFull.evqFree = ringFull.rd Reg.EVQ_CTRL.ALARM_RESV := by decide +kernel
theorem witness_hall : ringAlarm.ev.alarms.find? (fun a => !a.hall) = some ⟨{ aEvent with typ := Ev.STACK_FAIL }, false, false, false⟩ ∧
    ringAlarm.on Reg.MB_STATUS.FW_READY = true := by decide +kernel

theorem witness_hall_times : ringAlarm.ev.hallNext ≤ ringAlarm.now ∧
    ({ ringAlarm with ev := { ringAlarm.ev with hallNext := 9 } } : State).now < 9 := by decide +kernel

/-! ## Tile window -/

def windowOn (write : Bool) (tile : Nat) : State :=
  { (up.modTile 3 fun t => { t with unspec := false }) with tw := some ⟨tile, 0, 0x1FFF8, 1, write, false, [7, 0, 0, 0, 0, 0, 0, 0]⟩ }
def windowBusy : State := set up [(Reg.TW_STATUS.BUSY, 1)]
theorem witness_tile_window_go : up.valid = true ∧ bitsOf 3 0 1 = 1 ∧ up.rd Reg.TW_STATUS.BUSY = 0 ∧ windowBusy.valid = true ∧
    windowBusy.rd Reg.TW_STATUS.BUSY = 1 := by decide +kernel
theorem witness_tile_window : (windowOn true 127).twErr ⟨127, 0, 0x1FFF8, 1, true, false, [7, 0, 0, 0, 0, 0, 0, 0]⟩ = 1 ∧
    (∀ w ∈ [true, false], (windowOn w 3).tw = some ⟨3, 0, 0x1FFF8, 1, w, false, [7, 0, 0, 0, 0, 0, 0, 0]⟩ ∧ (windowOn w 3).stopped = false ∧
      (windowOn w 3).twErr ⟨3, 0, 0x1FFF8, 1, w, false, [7, 0, 0, 0, 0, 0, 0, 0]⟩ = 0 ∧ (windowOn w 3).islSt ((windowOn w 3).tileIsland 3) ≠ Isl.HELD ∧
      ((windowOn w 3).tile ((windowOn w 3).tileKey 3)).unspec = false) := by decide +kernel

/-- The tile's island, held. -/
def windowHeld (a : TwAcc) : State := set { windowOn false 3 with tw := some a } [(Reg.ISL_STATE.STATE 0, Isl.HELD)]
def inRange : TwAcc := ⟨3, 0, 0x1FFF8, 1, false, false, [7, 0, 0, 0, 0, 0, 0, 0]⟩
def beyond : TwAcc := { inRange with off := 0x20000 }
theorem witness_tile_window_holds : (∀ w ∈ [true, false], (windowOn w 3).heldTile ((windowOn w 3).tileKey 3) = false) ∧
    (windowHeld inRange).twErr inRange = 0 ∧ (windowHeld inRange).heldTile ((windowHeld inRange).tileKey 3) = true ∧
    (windowHeld beyond).twErr beyond = 4 ∧ (windowHeld beyond).heldTile ((windowHeld beyond).tileKey 3) = true ∧
    ({ windowOn false 3 with tw := some beyond } : State).twErr beyond = 4 ∧
    (windowOn false 3).twWritten ((windowOn false 3).tileKey 3) 0 0x1FFF8 = false ∧
    ((windowOn false 3).tile ((windowOn false 3).tileKey 3)).badWords = [] := by decide +kernel
theorem witness_cursor : (up.tile 64).lost = false ∧ up.heldTile 64 = false ∧ (windowHeld inRange).heldTile 3 = true ∧
    (windowHeld inRange).stopped = false := by decide +kernel

/-! ## Referee, power and thermal management -/

def hasSums (w : Nat) : State := { up with pwr := { up.pwr with samples := List.replicate 100 w } }
def clamped (w : Nat) : State := { up with pwr := { up.pwr with samples := List.replicate 99 w, clamp := true } }
theorem witness_grants_and_clamps : up.valid = true ∧ up.rd Reg.REF_CLAMP.P_MAX_W < 2 ^ 12 ∧ up.rd Reg.REF_CLAMP.T_MAX_C < 2 ^ 7 := by
  decide +kernel
theorem witness_power_clamp : up.watching = true ∧ 99 ≤ (hasSums 4000).pwr.samples.length ∧ (hasSums 4000).watching = true ∧
    (hasSums 4000).pwr.clamp = false ∧
    (hasSums 4000).rd Reg.REF_CLAMP.P_MAX_W * 100 < sumNat ((4000 :: (hasSums 4000).pwr.samples).take 100) ∧
    (clamped 1000).watching = true ∧ 99 ≤ (clamped 1000).pwr.samples.length ∧ (clamped 1000).pwr.clamp = true ∧
    sumNat ((1000 :: (clamped 1000).pwr.samples).take 100) < 95 * (clamped 1000).rd Reg.REF_CLAMP.P_MAX_W := by decide +kernel
def restarting : State := set up [(Reg.REF_WDOG.STATE, 1)]
def overdue : State := { up with now := 10000000000000 }
def overdueAgain : State := { overdue with cap := { overdue.cap with lastRestart := some overdue.now } }
theorem witness_watchdog : up.wdog = Wdog.RUNNING ∧ restarting.wdog = Wdog.RESTARTING ∧
    (∀ s ∈ [overdue, overdueAgain], s.watching = true ∧ s.wdog = Wdog.RUNNING ∧ s.on Reg.MB_STATUS.FW_READY = true ∧ s.wdogDue = true) ∧
    overdue.cap.lastRestart = none ∧ overdueAgain.cap.lastRestart = some overdueAgain.now ∧ overdueAgain.muted = false ∧
    overdueAgain.stage = Stage.READY ∧ restarting.watching = true ∧ restarting.stage = Stage.READY ∧ restarting.muted = false ∧
    restarting.cap.slot restarting.cap.booted = some FwHead.factory ∧ restarting.cap.accepts FwHead.factory = true := by
  decide +kernel
theorem witness_cap : bitsOf 1149 0 12 < 1150 ∧ 1150 ≤ bitsOf 1150 0 12 ∧ bitsOf 3200 0 12 ≤ 3200 ∧ 3200 < bitsOf 3201 0 12 ∧
    up.rd Reg.PWR_CTRL.CAP_W < 2 ^ 12 := by decide +kernel
theorem witness_cap_sources : ∀ src ∈ [Src.host, Src.captain], ∀ v ∈ [0, 1149, 3200, 3201],
    (⟨src, true, false, v, 0⟩ : Wr).src ≠ .frontEnd ∧ up.unreachable src Reg.PWR_CTRL.CAP_W.off = false ∧
    (⟨src, true, false, v, 0⟩ : Wr).covers Reg.PWR_CTRL.CAP_W = true ∧ (⟨src, true, false, v, 0⟩ : Wr).field Reg.PWR_CTRL.CAP_W = v := by
  decide +kernel
theorem witness_governor : (hasSums 4000).watching = true ∧ (hasSums 4000).pwr.sum? = some 400000 ∧
    (hasSums 4000).rd Reg.PWR_STATUS.CLK_MHZ ≤ 1900 ∧ (hasSums 4000).rd Reg.PWR_STATUS.DITHER ≤ 63 ∧
    up.computeIslands.contains 639 = false ∧ up.computeIslands.contains 499 = true ∧ up.islSt 499 ≠ Isl.GATED := by decide +kernel
def held (n : Nat) : State := set up [(Reg.ISL_STATE.STATE n, Isl.HELD), (Reg.ISL_STATE.HOLD n, 1)]
theorem witness_sensors : up.sensed 499 = true ∧ up.pwr.excluded = [] ∧ up.rd Reg.REF_CLAMP.T_MAX_C ≤ 105 ∧ up.islSt 499 = Isl.RUN ∧
    up.rd (Reg.ISL_STATE.HOLD 499) = 0 ∧ (held 0).watching = true ∧ (held 0).sensed 0 = true ∧ (held 0).islSt 0 = Isl.HELD ∧
    (held 0).rd (Reg.ISL_STATE.HOLD 0) = 2 ^ Cause.REFEREE ∧ 40 + 5 ≤ (held 0).rd Reg.REF_CLAMP.T_MAX_C ∧
    up.stackList.contains 11 = true := by decide +kernel
/-- Island 0 held, its mesh neighbours gated. -/
def heldAlone : State := set (held 0) [(Reg.ISL_STATE.STATE 1, Isl.GATED), (Reg.ISL_STATE.STATE 5, Isl.GATED)]
theorem witness_sensors_alone : heldAlone.watching = true ∧ heldAlone.sensed 0 = true ∧ heldAlone.islSt 0 = Isl.HELD ∧
    heldAlone.rd (Reg.ISL_STATE.HOLD 0) = 2 ^ Cause.REFEREE ∧ ∀ m ∈ meshNeighbours 0, heldAlone.sensed m = false := by decide +kernel
def fullTrim : State := set up [(Reg.ISL_STATE.TRIM 0, 6)]
def portsUp : State := set up [(Reg.LINK_PORT.STATE 17, Port.UP), (Reg.ETH_PORT.STATE 5, Port.UP), (Reg.LINK_PORT.STATE 0, Port.UP)]
theorem witness_margins : up.trim6 0 < 12 ∧ 12 ≤ fullTrim.trim6 0 ∧ fullTrim.sensed 0 = true ∧ fullTrim.watching = true ∧
    portsUp.watching = true ∧ portsUp.portState 17 = Port.UP ∧ portsUp.ethUp 5 = true := by decide +kernel
def moving (st : Nat) : State :=
  { set up [(Reg.ISL_STATE.STATE 4, st), (Reg.PWR_GATE_STATUS.BUSY, 1)] with pwr := { up.pwr with gating := [4] } }
def gated : State := set up [(Reg.ISL_STATE.STATE 4, Isl.GATED)]
theorem witness_gates : up.valid = true ∧ up.stopped = false ∧ up.dieFenced (4 / 32) = false ∧ up.rd Reg.PWR_GATE_STATUS.BUSY = 0 ∧
    up.islSt 4 = Isl.RUN ∧ up.gateIdle [4] = true ∧ (moving Isl.DRAINING).rd Reg.PWR_GATE_STATUS.BUSY = 1 ∧
    (up.modTile 64 fun t => { t with st := .ready }).gateIdle [4] = false ∧ gated.islSt 4 = Isl.GATED ∧ gated.valid = true ∧
    gated.rd Reg.PWR_GATE_STATUS.BUSY = 0 ∧ (moving Isl.DRAINING).islSt 4 = Isl.DRAINING ∧ (moving Isl.DRAINING).pwr.gating = [4] ∧
    (moving Isl.DRAINING).pwr.nbr = [] ∧ (moving Isl.UNGATING).islSt 4 = Isl.UNGATING ∧ (moving Isl.UNGATING).pwr.gating = [4] ∧
    (moving Isl.UNGATING).rd (Reg.ISL_STATE.HOLD 4) = 0 := by decide +kernel

/-- A window access on a tile of island 4. -/
def windowAt4 : State := { moving Isl.DRAINING with tw := some ⟨64, 0, 0, 1, false, false, []⟩ }
theorem witness_gate_waits : windowAt4.twPending 4 = true ∧ (moving Isl.DRAINING).twPending 4 = false := by decide +kernel

/-! ## Boot, resets, black box -/

def off : State := { set State.reset [(Reg.BOOT_STATUS.STAGE, 0)] with pins := ⟨false, false, false, false, 0⟩ }
def noRails : State := { State.reset with pins := ⟨true, false, false, false, 0⟩ }
def atStage (n : Nat) : State := set up [(Reg.BOOT_STATUS.STAGE, n)]
theorem witness_power_up : off.pins.pwrgd = false ∧ noRails.pins.pwrgd = true ∧ noRails.pins.railsUp = false ∧
    noRails.stage = Stage.STANDBY ∧ State.reset.pins.pwrgd = true ∧ State.reset.pins.perstN = false ∧ State.reset.pins.railsUp = true ∧
    State.reset.stage = Stage.STANDBY := by decide +kernel
theorem witness_boot_rom : (atStage Stage.ROM).stage = Stage.ROM ∧ (atStage Stage.ROM).cap.prefer < 2 ∧
    (atStage Stage.ROM).cap.slotOk 0 true = true ∧ (atStage Stage.ROM).cap.slotOk 0 false = false ∧
    (atStage Stage.ROM).cap.slotOk 1 true = true ∧ (atStage Stage.ROM).cap.slotOk 1 false = false := by decide +kernel
theorem witness_scan : (atStage Stage.SCAN).stage = Stage.SCAN ∧ (atStage Stage.SCAN).lastMap.serves = [] ∧
    (atStage Stage.SCAN).lastMap.benchFailed = [] ∧ (atStage Stage.SCAN).lastMap.fencedDie = none ∧
    (atStage Stage.SCAN).lastMap.fencedStack = none ∧ (atStage Stage.SCAN).actsOn = [] := by decide +kernel
theorem witness_no_scan : up.stage ≠ Stage.SCAN := by decide +kernel
def whistling (phase : Nat) : State :=
  { set up [(Reg.SC_STATUS.PHASE, phase)] with stopped := true, pins := ⟨true, true, true, true, 0⟩ }
theorem witness_resets : (whistling Phase.VOTING).stopped = true ∧ (whistling Phase.VOTING).pins.whistle = true ∧
    (whistling Phase.VOTING).phase = Phase.VOTING ∧ (whistling Phase.PIN_WAIT).phase = Phase.PIN_WAIT ∧ up.pins.pwrgd = true ∧
    up.pins.perstN = true ∧ up.pins.whistle = false ∧ up.stage ≠ Stage.OFF ∧ up.stage ≠ Stage.STANDBY := by decide +kernel
theorem witness_whistle : up.pins.pwrgd = true ∧ classD.contains Ev.HUB_FAIL = true ∧ up.muted = false ∧ up.stage = Stage.READY ∧
    (atStage Stage.UNFIT).stage = Stage.UNFIT ∧ (atStage Stage.ROM).stage = Stage.ROM ∧ (atStage Stage.SCAN).stage = Stage.SCAN := by
  decide +kernel
def mapped : State := { up with fit := some ⟨1, false, none, none, [], [], [], []⟩, bootSeq := 1, ev := { up.ev with faultLog := [aEvent] } }
theorem witness_black_box : mapped.captainUp = true ∧ mapped.ev.faultLog = [aEvent] ∧
    mapped.fit = some ⟨1, false, none, none, [], [], [], []⟩ ∧ mapped.valid = true ∧ mapped.box.bootSeq ≠ mapped.bootSeq ∧
    up.outOfReset = true ∧ up.on Reg.MB_STATUS.FW_READY = true ∧ (set up [(Reg.MB_STATUS.FW_READY, 0)]).on Reg.MB_STATUS.FW_READY = false := by
  decide +kernel

/-! ## The Captain's messages -/

/-- The Captain holds this one request. -/
def asked (s : State) (op : Nat) (payload : List Nat) : State :=
  { s with cap := { s.cap with reqs := [⟨op, 7, payload.length, payload⟩] } }
abbrev Takes (s : State) (op : Nat) (payload : List Nat) : Prop := s.captainUp = true ∧ (asked s op payload).cap.reqs[0]? = some ⟨op, 7, payload.length, payload⟩

def submitted : State :=
  { set up [(Reg.MB_STATUS.IN_BUSY, 1)] with cap := { up.cap with mbIn := leBytes 8 (Msg.GET_VERSION + 7 * 2 ^ 16), resps := [[1, 2, 3]] } }
def submittedFull : State := { submitted with cap := { submitted.cap with resps := List.replicate 32 [1] } }
def submittedBad : State := { submitted with cap := { submitted.cap with mbIn := leBytes 8 0xEEEE } }
theorem witness_mailbox : up.valid = true ∧ up.rd Reg.MB_STATUS.IN_BUSY = 0 ∧ submitted.valid = true ∧
    submitted.rd Reg.MB_STATUS.IN_BUSY = 1 ∧ submitted.captainUp = true ∧
    submitted.cap.reqs.length + submitted.cap.resps.length < 32 ∧
    submitted.headStatus submitted.cap.mbIn (reqOf submitted.cap.mbIn) = none ∧
    submittedBad.headStatus submittedBad.cap.mbIn (reqOf submittedBad.cap.mbIn) = some Mb.UNSUPPORTED ∧
    32 ≤ submittedFull.cap.reqs.length + submittedFull.cap.resps.length ∧ submitted.rd Reg.MB_STATUS.OUT_VALID = 0 ∧
    submitted.cap.resps = [[1, 2, 3]] := by decide +kernel

def createBody (rt share : Nat) : List Nat := leBytes 2 (2 + rt * 256) ++ leBytes 2 share ++ leBytes 4 262144 ++ leBytes 4 4096 ++ leBytes 4 16777215
/-- 4,095 contexts in use. -/
def crowded : State := { up with ctxs := (List.range' 0 4096).map fun c => (c, { Ctx.reset c with st := .active }) }
theorem mapGet?_listed {α : Type} (f : Nat → α) (c : Nat) :
    ∀ n a, a ≤ c → c < a + n → mapGet? ((List.range' a n).map fun k => (k, f k)) c = some (f c) := by
  intro n
  induction n with
  | zero => intro a h1 h2; omega
  | succ n ih =>
    intro a h1 h2
    by_cases h : a = c
    · simp [List.range'_succ, mapGet?, h]
    · simpa [List.range'_succ, mapGet?, h] using ih (a + 1) (by omega) (by omega)
/-- A real-time context with a SHARE of 200. -/
def timed : State := up.setCtx 1 { Ctx.reset 1 with st := .active, rt := true, rank := 9, share := 200, outstanding := 1 }
theorem witness_ctx_create : Takes up Msg.CTX_CREATE (createBody 1 224) ∧
    (leAt (createBody 1 224) 0 1 ≠ 0 ∧ leAt (createBody 1 224) 1 1 = 1 ∧ leAt (createBody 1 224) 2 2 = 224 ∧
      leAt (createBody 1 224) 4 4 = 262144 ∧ leAt (createBody 1 224) 8 2 = 4096 ∧ leAt (createBody 1 224) 12 4 = 16777215) ∧
    (up.ctx 2).st = .free ∧ (∀ d, 1 ≤ d → d < 2 → (up.ctx d).st ≠ .free) ∧ (up.rtCtxs.length < 64 ∧ up.rtShare + 224 ≤ 224) ∧
    224 < timed.rtShare + 25 ∧ timed.captainUp = true ∧ leAt (createBody 1 25) 2 2 = 25 ∧ leAt (createBody 0 257) 2 2 = 257 := by
  refine ⟨by decide +kernel, by decide +kernel, by decide +kernel, ?_, by decide +kernel⟩
  intro d h1 h2; obtain rfl : d = 1 := by omega
  decide +kernel
theorem witness_no_free_context : crowded.captainUp = true ∧ ∀ d, 1 ≤ d → d ≤ 4095 → (crowded.ctx d).st ≠ .free := by
  refine ⟨by decide +kernel, fun d _ h => ?_⟩
  have e : crowded.ctx d = { Ctx.reset d with st := .active } := by
    show (mapGet? _ d).getD _ = _
    rw [show crowded.ctxs = (List.range' 0 4096).map fun c => (c, { Ctx.reset c with st := CtxSt.active }) from rfl,
      mapGet?_listed _ d 4096 0 (by omega) (by omega)]
    rfl
  rw [e]; simp
def quotaBody (c share : Nat) : List Nat := leBytes 2 c ++ leBytes 2 share ++ leBytes 4 9 ++ leBytes 4 8
theorem witness_quota : Takes up Msg.CTX_SET_QUOTA (quotaBody 1 3) ∧ quotasOk 3 9 8 = true ∧ leAt (quotaBody 1 3) 0 2 = 1 ∧
    leAt (quotaBody 1 3) 2 2 = 3 ∧ leAt (quotaBody 1 3) 4 4 = 9 ∧ leAt (quotaBody 1 3) 8 2 = 8 ∧ (up.ctx 1).st = .active ∧
    (asked up Msg.CTX_SET_QUOTA (quotaBody 1 3)).shareDenied 1 3 8 = false ∧ leAt (quotaBody 4095 3) 0 2 = 4095 ∧
    (up.ctx 4095).st = .free := by decide +kernel
def timeoutBody (c ms : Nat) : List Nat := leBytes 4 c ++ leBytes 4 ms
def brokenSystem : State := up.setCtx 0 { Ctx.reset 0 with st := .error }
theorem witness_timeout : Takes up Msg.CTX_SET_TIMEOUT (timeoutBody 1 16777215) ∧ leAt (timeoutBody 1 16777215) 0 2 = 1 ∧
    leAt (timeoutBody 1 16777215) 4 4 = 16777215 ∧ (brokenSystem.ctx 0).st = .error ∧ brokenSystem.captainUp = true ∧
    leAt (timeoutBody 2 1) 0 2 = 2 ∧ (up.ctx 2).st = .free := by decide +kernel

def qpBody (c port : Nat) : List Nat :=
  leBytes 2 c ++ [port, 63] ++ leBytes 4 (2 ^ 24 - 1) ++ leBytes 4 1 ++ leBytes 4 2 ++ List.replicate 16 9 ++ leBytes 4 0xFFFF
def aQp : Qp := ⟨5, 3, 1, false, 0, 7, 8, 9, 10, 0xFFFF⟩
def paired : State := { up with qps := [⟨5, 2, 1, false, 0, 7, 8, 9, 10, 0xFFFF⟩, aQp] }
theorem witness_qp_create : Takes paired Msg.QP_CREATE (qpBody 1 5) ∧ leAt (qpBody 1 5) 2 1 = 5 ∧ leAt (qpBody 1 5) 3 1 = 63 ∧
    leAt (qpBody 1 5) 4 4 = 2 ^ 24 - 1 ∧ leAt (qpBody 1 5) 32 2 = 0xFFFF ∧ (paired.ctx 1).st = .active ∧ paired.qp? 5 4 = none ∧
    (paired.qp? 5 2 ≠ none ∧ paired.qp? 5 3 ≠ none) ∧ paired.unitFree (16 + 5 / 2) ≠ 0 ∧ leAt (qpBody 9 5) 0 2 = 9 ∧
    (paired.ctx 9).st ≠ .active := by decide +kernel
def qpFreeBody (n : Nat) : List Nat := [5, 0, 0, 0] ++ leBytes 4 n

/-- A REF slot operand over plain bytes. -/
def plainRef (loc : Loc) (write : Bool) : Ref := ⟨loc, write, false, false, 0, none⟩
def refOp (host : Bool) (addr : Nat) (write : Bool) : Opnd := .ref (plainRef ⟨host, addr⟩ write)
def imm (v : Nat) : Opnd := .num (.imm v)
/-- An op of this class and code, staged. -/
def opOf (cls code : Nat) (opnds : List Opnd) : Op :=
  { id := 7, cls := cls, code := code, preds := [], fence := false, noSteal := false, accInit := 0, opnds := opnds, st := .staged,
    det := false, step := 0, slot := 0, t0 := 0, paused := 0, limit := 10000, work := .none,
    fetch := ⟨[], [], 0⟩, early := [], conv := [], result := [] }
def opKey : OpKey := ⟨1, 5, 7⟩
/-- The op stands in context 1's buffer 5. -/
def withOp (s : State) (o : Op) : State := { s with fe := { s.fe with bufs := [⟨1, 5, false, false, 0, 0, true, [o]⟩] } }

/-- A running snapshot over queue pair 3 of port 5. -/
def snapOp : Op := { opOf Cls.STEP 5 [imm 0, imm 0, imm (5 * 2 ^ 24 + 3)] with st := .running, work := .snap 0 0 [] false }
theorem witness_qp_free : Takes paired Msg.QP_FREE (qpFreeBody 3) ∧ leAt (qpFreeBody 3) 0 1 = 5 ∧ leAt (qpFreeBody 3) 4 4 = 3 ∧
    paired.qp? 5 3 = some aQp ∧ (paired.allOps.any fun o => o.1.ctx = aQp.owner && o.2.usesQp 5 3) = false ∧
    (withOp paired snapOp).captainUp = true ∧
    ((withOp paired snapOp).allOps.any fun o => o.1.ctx = aQp.owner && o.2.usesQp 5 3) = true := by decide +kernel

def plainSeg : TileSeg :=
  { sram := [1, 2, 3], sramSize := 3, width := 0, holeStride := 0, iter := 0, pfSel := [], pf := [], entries := [], gen := 0,
    outlLog2 := 3, customSel := [], statsEn := 0, role := 0, trees := 0, replica := 0, segment := 0, firstTree := 0 }
def plainImage : Image := { segs := [plainSeg], score := none, pat := none, work := [], kind := 0, gen := 0, crc := 0x1234, errOffset := 0 }
def checkBody : List Nat := leBytes 8 0 ++ leBytes 4 64 ++ [4, 0, 0, 0]

theorem witness_reports : Takes up Msg.GET_VERSION [] ∧ up.cap.svnFused < 256 ∧
    Takes up Msg.BLACKBOX_READ (leBytes 4 1044496 ++ leBytes 4 4080) ∧ leAt (leBytes 4 1044496 ++ leBytes 4 4080) 4 4 = 4080 ∧
    leAt (leBytes 4 1044496 ++ leBytes 4 4080) 0 4 + 4080 = 1048576 ∧ Takes up Msg.IMAGE_CHECK checkBody ∧
    leAt checkBody 12 1 = 4 ∧ leAt checkBody 0 8 + leAt checkBody 8 4 ≤ up.reserve ∧ up.kindOk 4 plainImage = true := by decide +kernel

def calBody (stage en : Nat) : List Nat := leBytes 8 stage ++ leBytes 8 0x80 ++ [24, 1, en, 0]
def calibrating : State := set up [(Reg.POLICY_CTRL.CAL_EN, 1)]
def captains : State := set up [(Reg.POLICY_CTRL.CAL_OWNER, 1)]
def refitBody (gen : Nat) : List Nat := leBytes 8 0 ++ leBytes 8 9 ++ leBytes 4 1 ++ leBytes 4 gen ++ leBytes 8 4096 ++ leBytes 8 65536
theorem witness_calibration : Takes up Msg.CAL_CONFIG (calBody 8192 1) ∧
    (leAt (calBody 8192 1) 0 8 = 8192 ∧ leAt (calBody 8192 1) 8 8 % 2 ^ 7 = 0 ∧ leAt (calBody 8192 1) 16 1 = 24 ∧
      leAt (calBody 8192 1) 17 1 = 1 ∧ leAt (calBody 8192 1) 18 1 = 1) ∧ up.on Reg.POLICY_CTRL.CAL_EN = false ∧
    calibrating.on Reg.POLICY_CTRL.CAL_EN = true ∧ leAt (calBody 8192 1) 0 8 ≠ calibrating.rd Reg.CAL_STAGE_BASE.ADDR ∧
    up.on Reg.POLICY_CTRL.CAL_OWNER = false ∧ captains.on Reg.POLICY_CTRL.CAL_OWNER = true ∧
    Takes captains Msg.CAL_REFIT (refitBody 3) ∧ leAt (refitBody 3) 20 1 = 3 ∧ 3 ≠ captains.rd Reg.POLICY_CTRL.ACTIVE_GEN ∧
    leAt (refitBody 0) 20 1 = captains.rd Reg.POLICY_CTRL.ACTIVE_GEN ∧ captains.poison = [] := by decide +kernel

def svnUp : State := set up [(Reg.MB_FW_VERSION.SVN, 3)]
theorem witness_firmware : Takes up Msg.FW_UPDATE (leBytes 8 0 ++ leBytes 8 6291456) ∧
    leAt (leBytes 8 0 ++ leBytes 8 6291456) 0 8 + leAt (leBytes 8 0 ++ leBytes 8 6291456) 8 4 ≤ up.reserve ∧
    up.cap.accepts FwHead.factory = true ∧ up.cap.accepts { FwHead.factory with sigOk := false } = false ∧
    Takes svnUp Msg.FW_SVN_COMMIT [3, 0, 0, 0] ∧ (svnUp.cap.svnFused ≤ 3 ∧ 3 ≤ svnUp.rd Reg.MB_FW_VERSION.SVN) ∧
    svnUp.rd Reg.MB_FW_VERSION.SVN < 4 ∧ up.valid = true := by decide +kernel

/-! ## The front end -/

/-- Context 1 with quotas that admit ops on tiles. -/
def able : State := up.setCtx 1 { Ctx.reset 1 with st := .active, rank := 2, share := 256, streams := 1000, outstanding := 100 }
def ringed : State :=
  { set able [(Reg.SUBQ_CTRL.EN, 1), (Reg.SUBQ_TAIL.TAIL, 1)] with fe := { able.fe with on := true, base := 0, sizeLog2 := 4 } }
/-- Reading a descriptor's place in host memory. -/
def descBytes (c seq : Nat) : List Nat :=
  leBytes 8 c ++ leBytes 8 seq ++ leBytes 8 4096 ++ leBytes 8 64 ++ leBytes 8 0 ++ List.replicate 24 0
def withDesc (s : State) (bs : List Nat) : State := { s with hostMem := Memory.wrBytes [] 0 bs }
def goodDesc : State := withDesc ringed (descBytes 1 6)
def idleDesc : State := withDesc ringed (descBytes 9 6)
def oldDesc : State := (withDesc ringed (descBytes 1 6)).modCtx 1 fun x => { x with lastSeq := some 6 }
def barred : State := set goodDesc [(Reg.REF_WIN_CTRL.RD 0, 0)]
def theDesc : Desc := ⟨1, 6, false, false, 0, 0, ⟨true, 4096⟩, 64⟩
theorem witness_submission_ring : up.valid = true ∧ bitsOf 9 0 1 = 1 ∧ (4 ≤ bitsOf 9 1 5 ∧ bitsOf 9 1 5 ≤ 16) ∧ bitsOf 7 1 5 = 3 ∧
    up.on Reg.SUBQ_CTRL.EN = false ∧ bitsOf 8 0 1 = 0 ∧ ringed.fe.on = true ∧ ringed.valid = true ∧ up.fe.on = false ∧
    2 ^ ringed.fe.sizeLog2 < (17 % 2 ^ 32 + 2 ^ 32 - ringed.rd Reg.SUBQ_HEAD.HEAD) % 2 ^ 32 ∧
    (16 % 2 ^ 32 + 2 ^ 32 - ringed.rd Reg.SUBQ_HEAD.HEAD) % 2 ^ 32 ≤ 2 ^ ringed.fe.sizeLog2 := by decide +kernel
theorem witness_descriptors : barred.descAddr? = some 0 ∧ barred.windowAdmits 0 64 false = false ∧ goodDesc.descAddr? = some 0 ∧
    goodDesc.windowAdmits 0 64 false = true ∧ descOf (goodDesc.hostMem.rdBytes 0 64) = (theDesc, false) ∧
    (goodDesc.ctx 1).st = .active ∧ goodDesc.descCode theDesc false = none ∧ idleDesc.descAddr? = some 0 ∧
    descOf (idleDesc.hostMem.rdBytes 0 64) = ({ theDesc with ctx := 9 }, false) ∧ (idleDesc.ctx 9).st ≠ .active ∧
    oldDesc.descAddr? = some 0 ∧ oldDesc.descCode theDesc false = some 1 := by decide +kernel

/-- A buffer of one NOP with OP_ID 7. -/
def nopBuffer : List Nat :=
  let head := leBytes 4 1 ++ leBytes 4 1 ++ leBytes 4 64 ++ leBytes 4 0 ++ List.replicate 16 0
  let op := leBytes 8 (7 + 7 * 2 ^ 16 + 2 * 2 ^ 40) ++ List.replicate 24 0
  patchBytes (head ++ op) 12 (leBytes 4 (crc32 (head ++ op)))
def fetching (bs : List Nat) : State :=
  { able with fe := { able.fe with desc := some theDesc }, hostMem := Memory.wrBytes [] 4096 bs }
def spoiltBuffer : List Nat := patchBytes nopBuffer 12 [0, 0, 0, 0]
def nopOp : Op := { opOf Cls.SYNC 0 [] with st := .waiting, limit := 0 }
theorem witness_buffers : (fetching nopBuffer).fe.desc = some theDesc ∧ (fetching nopBuffer).stopped = false ∧
    Reached (fetching nopBuffer) theDesc.loc 64 false ∧
    (fetching nopBuffer).read theDesc.loc 64 = nopBuffer ∧ (fetching nopBuffer).inFlight + leAt nopBuffer 4 4 ≤ 65536 ∧
    (match (fetching nopBuffer).checkBuffer [] 1 nopBuffer 64 with
      | .ok ops => ops == [nopOp]
      | .error _ => false) = true ∧
    (fetching nopBuffer).fe.bufs = [] ∧ theDesc.wait = false ∧
    (match (fetching spoiltBuffer).checkBuffer [] 1 spoiltBuffer 64 with
      | .ok _ => false
      | .error f => f == (3, 0, 0)) = true ∧ ((fetching spoiltBuffer).ctx 1).st = .active := by
  refine ⟨rfl, rfl, ?_, ?_⟩ <;> decide +kernel

/-- A LOAD_CONFIG on tile 0 alone. -/
def loadOp (st : OpSt) : Op := { opOf Cls.SYNC 1 [imm 0, imm 1, refOp false 4096 false] with st := st, limit := 0 }
def bufWith (o : Op) : Buf := ⟨1, 5, false, false, 0, 0, true, [o]⟩
def stageable : State := withOp able (loadOp .waiting)
def onDeck : State := (withOp able (loadOp .staged)).modTile 0 fun t => { t with deck := some opKey }
def badIndirect : Op := opOf Cls.SYNC 3 [imm 0, refOp false 64 false, imm 0, imm 0]
def badStaged : State := (withOp able badIndirect).modTile 0 fun t => { t with deck := some opKey, st := .ready, ctx := 1, duty := 1 }
def complete : State :=
  (withOp able { loadOp .executed with limit := 10000 }).modTile 0 fun t => { t with running := some opKey, st := .busy, ctx := 1, duty := 1 }
theorem witness_op_stages : stageable.op? opKey = some (loadOp .waiting) ∧ stageable.buf? 1 5 = some (bufWith (loadOp .waiting)) ∧
    (bufWith (loadOp .waiting)).predsNear (loadOp .waiting) = true ∧ stageable.inBand opKey (loadOp .waiting) = false ∧
    (loadOp .waiting).tiles = [0] ∧ (stageable.tile 0).deck = none ∧ (stageable.tile 0).admits 1 (loadOp .waiting) = true ∧
    stageable.islSt (stageable.tileIsland 0) = Isl.RUN ∧ stageable.tilesAdmitted 1 [0] = true ∧
    stageable.outranked opKey (loadOp .waiting) = false ∧
    ((stageable.reserveAll 1 (stageable.contextsFor opKey (bufWith (loadOp .waiting)) (loadOp .waiting))).bind fun u =>
      u.grantTrees opKey (loadOp .waiting)) = some stageable := by decide +kernel
theorem witness_op_dispatches : onDeck.op? opKey = some (loadOp .staged) ∧ onDeck.buf? 1 5 = some (bufWith (loadOp .staged)) ∧
    (bufWith (loadOp .staged)).predsDone (loadOp .staged) = true ∧ onDeck.rootReady (bufWith (loadOp .staged)) (loadOp .staged) = true ∧
    (onDeck.tile 0).deck = some opKey ∧ (onDeck.tile 0).running = none ∧ onDeck.heldStaged (loadOp .staged) = false ∧
    onDeck.outranked opKey (loadOp .staged) = false ∧ badStaged.outranked opKey badIndirect = false ∧
    (loadOp .staged).opnds.flatMap Opnd.indLocs = [] ∧ onDeck.phase ≠ Phase.IN_DOUBT ∧
    dispatchOk (loadOp .staged) ((loadOp .staged).opnds.map fun x => x.resolve onDeck) = true ∧
    badStaged.op? opKey = some badIndirect ∧ badIndirect.opnds.flatMap Opnd.indLocs = [] ∧
    dispatchOk badIndirect (badIndirect.opnds.map fun x => x.resolve badStaged) = false := by decide +kernel
/-- Two ops of one buffer that want tile 0: the first goes before the second. -/
def laterOp : Op := { loadOp .waiting with id := 999 }
def rivals : State :=
  stageable.setBufs (stageable.fe.bufs.map fun b => { b with ops := b.ops ++ [laterOp] })
theorem witness_op_outranked : rivals.op? { opKey with id := 999 } = some laterOp ∧
    rivals.outranked { opKey with id := 999 } laterOp = true ∧ rivals.outranked opKey (loadOp .waiting) = false := by decide +kernel
theorem witness_op_completes : complete.op? opKey = some { loadOp .executed with limit := 10000 } ∧ complete.recordsLeft opKey = false ∧
    (complete.tile 0).running = some opKey ∧
    (complete.fe.bufs.filter fun x => x.ctx = 1) = [bufWith { loadOp .executed with limit := 10000 }] := by decide +kernel

/-- The started op's island is held; a link port that has been silent for a microsecond; an op in no such case. -/
def heldOp : State := set complete [(Reg.ISL_STATE.STATE 0, Isl.HELD)]
def quietPort : State := { set up [(Reg.LINK_PORT.STATE 0, Port.UP)] with now := 999 }
theorem witness_ticks : heldOp.pending = [] ∧ HeldBack heldOp { loadOp .executed with limit := 10000 } ∧
    heldOp.opAt opKey = some { loadOp .executed with limit := 10000 } ∧
    complete.opAt opKey = some { loadOp .executed with limit := 10000 } ∧ ¬HeldBack complete { loadOp .executed with limit := 10000 } ∧
    quietPort.pending = [] ∧ quietPort.stopped = false ∧ quietPort.portState 0 = Port.UP ∧ (quietPort.port 0).lastTx + 1000 ≤ quietPort.now + 1 ∧
    up.fe.bufs = [] ∧ (∀ p ∈ List.range 18, up.portState p ≠ Port.UP) ∧ up.ev.hallNext ≤ up.now + 1 := by
  simp only [HeldBack]; decide +kernel
def overrun : State := withOp able (opOf Cls.SYNC 0 [] |> fun o => { o with st := .running })
def discarding (st : CtxSt) : State :=
  ((((able.modCtx 1 fun x => { x with st := st, discard := some (10, 0) })).modTile 0 fun t => { t with st := .quiet, ctx := 1 }).modTile 5
    fun t => { t with st := .ready, ctx := 1 })
def discarding0 : State := able.setCtx 0 { Ctx.reset 0 with st := .error, discard := some (10, 0) }
def busyTile : State := complete.modTile 3 fun t => { t with st := .idle, running := some opKey }
theorem witness_timeouts : overrun.stopped = false ∧ overrun.op? opKey = some { opOf Cls.SYNC 0 [] with st := .running } ∧
    overrun.muted = false ∧ overrun.stage = Stage.READY ∧ ((discarding .error).ctx 1).discard = some (10, 0) ∧
    ((discarding .dugout).ctx 1).st = .dugout ∧ ((discarding .error).ctx 1).st = .error ∧ (discarding0.ctx 0).st = .error ∧
    ((discarding .dugout).tile 5).ctx = 1 ∧ ((discarding .dugout).tile 5).st ≠ .idle ∧ (busyTile.ctx 1).st = .active ∧
    classQ.contains Ev.COLL_BAD = true ∧ (busyTile.tile 0).running = some opKey ∧ (busyTile.tile 3).st = .idle := by decide +kernel

/-- The same states a second later, and a discarded op that still has transfers outstanding. -/
def late (s : State) : State := { s with now := 10000000001 }
def droppedMove : Op :=
  { opOf Cls.STREAM 0 [] with st := .running, work := .move ⟨[], [(0, ⟨⟨false, 4096⟩, ⟨false, 12288⟩, 64, 0⟩)], 1, 1, 1⟩ }
def withDropped : State := { discarding .dugout with se := { (discarding .dugout).se with dropped := [(opKey, droppedMove)] } }
theorem witness_times : overrun.ranFor { opOf Cls.SYNC 0 [] with st := .running } ≤ 10000 * 1000000 ∧
    10000 * 1000000 < (late overrun).ranFor { opOf Cls.SYNC 0 [] with st := .running } ∧ (opOf Cls.SYNC 0 []).limit = 10000 ∧
    (discarding .error).now - 0 ≤ 10 * 1000000 ∧ 10 * 1000000 < (late (discarding .error)).now - 0 ∧
    (late overrun).muted = false ∧ (late overrun).stage = Stage.READY ∧ (late (discarding .error)).stage = Stage.READY := by decide +kernel
theorem witness_quiet : (withDropped.ctx 1).discard.isSome = true ∧ ((withDropped.droppedOf 1).any fun o => o.outstanding != 0) = true ∧
    (((discarding .dugout).droppedOf 1).any fun o => o.outstanding != 0) = false ∧
    (((discarding .error).droppedOf 1).any fun o => o.outstanding != 0) = false ∧
    ((discarding0.droppedOf 0).any fun o => o.outstanding != 0) = false := by decide +kernel
def running (o : Op) : State := withOp able { o with st := .running }
def shareOp (c share : Nat) : Op := opOf Cls.SYNC 5 [imm c, imm share, imm 4, imm 2]
def rtTwo : State :=
  (running (shareOp 2 225)).setCtx 2 { Ctx.reset 2 with st := .active, rt := true, rank := 1, share := 3, outstanding := 1 }
def destroyOp (c : Nat) : Op := opOf Cls.SYNC 6 [imm c]
def broken : State := (running (destroyOp 1)).modCtx 1 fun x => { x with st := .error }
def mapOp (c h space : Nat) : Op := opOf Cls.SYNC 7 [imm c, imm h, imm space, imm 3, imm 4096, imm (2 ^ 40)]
def unmapOp (c h : Nat) : Op := opOf Cls.SYNC 8 [imm c, imm h]
theorem witness_kernel_ops : (running (opOf Cls.SYNC 0 [])).opIs opKey Cls.SYNC 0 .running = some { opOf Cls.SYNC 0 [] with st := .running } ∧
    ((running (shareOp 1 3)).opIs opKey Cls.SYNC 5 .running).isSome = true ∧ (running (shareOp 1 3)).shareDenied 1 3 2 = false ∧
    rtTwo.shareDenied 2 225 2 = true ∧ ((running (destroyOp 9)).opIs opKey Cls.SYNC 6 .running).isSome = true ∧
    ((running (destroyOp 9)).ctx 9).st = .free ∧ ((running (destroyOp 1)).ctx 1).st = .active ∧ (broken.ctx 1).st = .error ∧
    ((running (mapOp 1 5 1)).opIs opKey Cls.SYNC 7 .running).isSome = true ∧ (running (mapOp 1 5 1)).mappable 1 = true ∧
    ((running (mapOp 1 5 1)).fe.relocs.filter fun r => !(r.ctx = 1 && r.handle = 5)).length < 1048576 ∧ (5 : Nat) ≠ 0 ∧
    (running (mapOp 9 5 1)).mappable 9 = false ∧ (mapOp 1 5 0).num 2 ≠ 1 ∧ up.reserve < (mapOp 1 5 0).num 4 + (mapOp 1 5 0).num 5 ∧
    ((running (unmapOp 1 5)).opIs opKey Cls.SYNC 8 .running).isSome = true ∧ (running (unmapOp 9 5)).mappable 9 = false := by decide +kernel

/-! ## Tensor work and the numerics policy -/

def plainTensor (fmt elements inner : Nat) : Tensor :=
  { fmt := fmt, id := 3, layer := 0, pass := 0, role := 0, stats := false, sr := false, lead := true, budget := 0, dflt := 0,
    elements := elements, inner := inner, managed := none, custom := [] }
def tensorRef (addr : Nat) (write : Bool) (t : Tensor) : Ref := { plainRef ⟨false, addr⟩ write with tensor := some t }
/-- A at 4096, B at 8192, C at 12288: M = 2, N = 3, K = 32. -/
def mmA (fmt : Nat) : Ref := tensorRef 4096 false (plainTensor fmt 64 32)
def mmB (fmt : Nat) : Ref := tensorRef 8192 false (plainTensor fmt 96 32)
def mmC (fmt : Nat) : Ref := tensorRef 12288 true (plainTensor fmt 6 32)
def mmOp (fa fb fc : Nat) : Op :=
  opOf Cls.TENSOR 0 [imm 0, .ref (mmA fa), .ref (mmB fb), .ref (mmC fc), .null, imm 2, imm 3, imm 32]
/-- Element k of A's row r is 1 + r + k, of B's row c is 2 - c, as BF16. -/
def mmState (o : Op) : State :=
  let a := (List.range 64).flatMap fun i => leBytes 2 (bf16Of (Num.fin ⟨Int.ofNat (1 + i / 32 + i % 32), 0⟩))
  let b := (List.range 96).flatMap fun i => leBytes 2 (if i / 32 = 0 then 0x4000 else if i / 32 = 1 then 0x3F80 else 0xC000)
  { running o with hbm := Memory.wrBytes (Memory.wrBytes [] 4096 a) 8192 b }
def mm : State := mmState (mmOp 9 9 10)
theorem witness_matmul : mm.opIs opKey Cls.TENSOR 0 .running = some { mmOp 9 9 10 with st := .running } ∧ (mmOp 9 9 10).work = .none ∧
    mm.checksPass (mmOp 9 9 10) = true ∧ (mmOp 9 9 10).accInit = 0 ∧ (mmOp 9 9 10).ref? 1 = some (mmA 9) ∧
    (mmOp 9 9 10).ref? 2 = some (mmB 9) ∧ (mmOp 9 9 10).ref? 3 = some (mmC 10) ∧
    Reached mm ⟨false, 4096⟩ (plainTensor 9 64 32).extent false ∧ Reached mm ⟨false, 8192⟩ (plainTensor 9 96 32).extent false ∧
    Reached mm ⟨false, 12288⟩ (plainTensor 10 6 32).extent true ∧ Untraced mm ∧ (mmOp 9 9 10).num 7 % 32 = 0 ∧
    (plainTensor 9 64 32).elements = (mmOp 9 9 10).num 5 * (mmOp 9 9 10).num 7 ∧
    (plainTensor 9 96 32).elements = (mmOp 9 9 10).num 6 * (mmOp 9 9 10).num 7 ∧
    (plainTensor 10 6 32).elements = (mmOp 9 9 10).num 5 * (mmOp 9 9 10).num 6 ∧ mm.workPlan (mmOp 9 9 10) = none := by decide +kernel

def cvSrc : Ref := tensorRef 4096 false (plainTensor 9 40 64)
def cvDst (fmt : Nat) : Ref := tensorRef 12288 true (plainTensor fmt 40 64)
def cvOp (fmt : Nat) : Op := opOf Cls.CONVERT 0 [imm 0, .ref cvSrc, .ref (cvDst fmt)]
def cv (fmt : Nat) : State := { running (cvOp fmt) with hbm := mm.hbm }
/-- Tags at 16384, decision array at 20480, overflow pool at 24576. -/
def managed : Managed :=
  ⟨⟨⟨false, 20480⟩, false, false, false, 0⟩, ⟨⟨false, 16384⟩, true, false, false, 0⟩, ⟨⟨false, 24576⟩, true, false, false, 0⟩, 0⟩
def cvTarget : Tensor := { plainTensor 0 40 64 with managed := some managed, dflt := 2 }
def cvmOp : Op := opOf Cls.CONVERT 0 [imm 0, .ref cvSrc, .ref (tensorRef 12288 true cvTarget)]
def cvm : State := { running cvmOp with hbm := Memory.wrBytes mm.hbm 20480 (leBytes 4 1) }
theorem witness_convert : (cv 10).opIs opKey Cls.CONVERT 0 .running = some { cvOp 10 with st := .running } ∧
    Reached (cv 10) ⟨false, 4096⟩ (plainTensor 9 40 64).extent false ∧ Reached (cv 10) ⟨false, 12288⟩ (plainTensor 10 40 64).extent true ∧
    Untraced (cv 10) ∧ cvm.opIs opKey Cls.CONVERT 0 .running = some { cvmOp with st := .running } ∧
    Reached cvm ⟨false, 12288⟩ cvTarget.extent true ∧ Reached cvm managed.dec.loc 64 false ∧
    Reached cvm managed.tags.loc (32 * cvTarget.patches) true ∧ leAt (cvm.read managed.dec.loc 64) 0 4 = cvTarget.patches ∧
    bitOf (leAt (cvm.read managed.dec.loc 64) 4 1) 7 = false ∧ cvTarget.dflt < 4 ∧ cvTarget.stats = false := by decide +kernel

def vecOp : Op :=
  opOf Cls.TENSOR 2 [imm 0, refOp false 64 false, .ref (tensorRef 4096 false (plainTensor 9 40 64)),
    .ref (tensorRef 12288 true (plainTensor 10 40 64)), .null, .null, .null, .null, imm 1, imm 2, imm 3, imm 4]
def vec : State := running vecOp
theorem witness_vector : vec.opIs opKey Cls.TENSOR 2 .running = some { vecOp with st := .running } ∧ vec.checksPass vecOp = true ∧
    Reached vec (vecOp.locOf 1) 1 false ∧
    vectorRefs vecOp = [tensorRef 4096 false (plainTensor 9 40 64), tensorRef 12288 true (plainTensor 10 40 64)] ∧
    Reached vec ⟨false, 4096⟩ (plainTensor 9 40 64).extent false ∧ Reached vec ⟨false, 12288⟩ (plainTensor 10 40 64).extent true := by
  decide +kernel

/-- SEL at 4096, lists at 8192, counts at 12288, spill list at 16384: five entries, two buckets, CAPACITY 2, OVERFLOW as given. -/
def dispOp (ovf : Nat) : Op :=
  opOf Cls.TENSOR 1 [imm 0, refOp false 4096 false, imm 5, imm 2, imm 2, refOp false 8192 true, refOp false 12288 true,
    refOp false 16384 true, imm 8, imm ovf]
/-- Keys 5 and 9 have leaves 0 and 1. -/
def routes : List (Nat × TmaSlot) :=
  [(0, ⟨5, 0xFFFF, 0, 0, true, 16⟩), (1, ⟨9, 0xFFFF, 1, 0, true, 16⟩)]
def disp (ovf : Nat) : State :=
  { (running (dispOp ovf)).modTile 0 fun t => { t with tma := routes, unspec := false } with
    hbm := Memory.wrBytes [] 4096 ([5, 9, 5, 7, 5].flatMap fun k => leBytes 8 (k * 2 ^ 24 + 3)) }
theorem witness_dispatch : (disp 0).opIs opKey Cls.TENSOR 1 .running = some { dispOp 0 with st := .running } ∧
    Reached (disp 0) ⟨false, 4096⟩ 40 false ∧
    (∀ r ∈ [((⟨false, 8192⟩ : Loc), 32), (⟨false, 12288⟩, 8), (⟨false, 16384⟩, 64)], Reached (disp 0) r.1 r.2 true) ∧ Untraced (disp 0) ∧
    ([((⟨false, 8192⟩ : Loc), 32), (⟨false, 12288⟩, 8), (⟨false, 16384⟩, 64)].Pairwise fun p q =>
      p.1.host ≠ q.1.host ∨ p.1.addr + p.2 ≤ q.1.addr ∨ q.1.addr + q.2 ≤ p.1.addr) ∧
    bucketEntries (disp 0) (dispOp 0) 0 = [0, 2, 4] ∧ bucketEntries (disp 0) (dispOp 0) 1 = [1] ∧
    bucketOf (disp 0) (dispOp 0) 3 = none := by decide +kernel

/-- A convert on tiles 0 and 1. -/
def stealOp : Op := { opOf Cls.CONVERT 0 [imm (2 ^ 23), .ref cvSrc, .ref (cvDst 10)] with st := .running }
def aUnit (owner : Nat) (thief : Option Nat) (arrived : Option (Nat × Nat)) : UnitSt := ⟨⟨owner, 0, 1, 0, 1, 0, 1⟩, thief, arrived⟩
def queue : List UnitSt := [aUnit 0 none none, aUnit 0 none none, aUnit 0 (some 1) none, aUnit 0 (some 1) (some (1, 0))]
def stealing : State := withOp able { stealOp with work := .units queue [] [] }
def onReplay (r : ReplaySt) : State := mm.modTile 0 fun t => { t with running := some opKey, replay := r, st := .busy, ctx := 1 }
theorem witness_stealing : stealing.op? opKey = some { stealOp with work := .units queue [] [] } ∧ stealOp.stealable = true ∧
    0 < stealOp.tiles.length ∧ queue[2]? = some (aUnit 0 (some 1) none) ∧
    (∀ x ∈ queue, x.u.owner = 0 → ∀ a, x.arrived = some a → a.1 ≤ 2) ∧ 2 ≤ (ownUnits queue 0).length ∧
    (∀ r ∈ [ReplaySt.check, .rp3, .rp4], ((onReplay r).tile 0).running = some opKey ∧ ((onReplay r).tile 0).replay = r) ∧
    (onReplay .check).opIs opKey Cls.TENSOR 0 .running = some { mmOp 9 9 10 with st := .running } ∧
    (onReplay .check).islSt ((onReplay .check).tileIsland 0) = Isl.RUN ∧ (onReplay .rp4).muted = false ∧
    (onReplay .rp4).stage = Stage.READY := by
  refine ⟨by decide +kernel, by decide +kernel, by decide +kernel, by decide +kernel, ?_, by decide +kernel, by decide +kernel,
    by decide +kernel, by decide +kernel, by decide +kernel, by decide +kernel⟩
  intro x hx _ a ha
  simp [queue, aUnit] at hx
  rcases hx with rfl | rfl | rfl <;> simp at ha
  obtain rfl := ha; decide

theorem witness_no_early : (mmOp 9 9 10).early = [] ∧ (cvOp 10).early = [] ∧ cvmOp.early = [] ∧ vecOp.early = [] ∧ (dispOp 0).early = [] := by
  decide +kernel
/-- Position 0 asks for units where none is taken; a check of the example block pair that agrees, and one whose first sum is off. -/
def stealing0 : State := withOp able { stealOp with work := .units [aUnit 0 none none, aUnit 0 none none] [] [] }
def goodCheck : PairCheck := .q4 [] [] [0, 0, 0, 0]
def badChecks : List PairCheck := [.q4 [] [] [1, 0, 0, 0], .fp8 [3, -2] [5, 4] 8, .bf16 [(3, 5, 15), (129, 130, 16771)]]
theorem witness_steal_holds : stealing.stopped = false ∧ stealOp.tiles.any stealing.heldTile = false ∧
    (queue.any fun u => u.thief = some 0 && u.arrived.isNone) = false ∧
    stealing0.op? opKey = some { stealOp with work := .units [aUnit 0 none none, aUnit 0 none none] [] [] } ∧
    stealOp.tiles.any stealing0.heldTile = false ∧ goodCheck.mismatch = false ∧ (∀ c ∈ badChecks, c.mismatch = true) ∧
    (∀ r ∈ [ReplaySt.check, .rp3], r ≠ .halted ∧ r ≠ .rp4) := by decide +kernel
def aRec : StatRec := ⟨opKey, 3, 1, 0, 5, 4096, [0, 1, 2, 0, 0, 0, 0, 0, 6], 20480, 2, 64⟩
def emitting (n : Nat) : State := able.modTile 5 fun t => { t with emit := [aRec], recs := List.replicate n aRec }
def policyPlan : ScorePlan :=
  { outputs := 8, link := 0, base := List.replicate 8 0x3F800000, descs := [], trees := [], binner := 0, leaves := [], ruleBanks := [], ruleLayout := [], stride := 64, replicas := 1, segments := 1 }
def policyImage : Image := { plainImage with score := some policyPlan }
def scoring : State :=
  { (able.modTile 5 fun t => { t with recs := [aRec] }).modTile 9 fun t => { t with duty := 2, st := .ready, cfg := some 4 } with
    configs := [(4, policyImage)] }
def aSample : Sample := ⟨some 1, 3, 1, 0, 40, 64, false, [1, 2, 3], 1, true, some ⟨2, 5, 0, [7]⟩, none⟩
def shadowing : State := (set able [(Reg.CAL_LOG_SIZE.LOG2, 4)]).modTile 5 fun t => { t with samples := [aSample] }
theorem witness_policy : ((emitting 4).tile 5).emit = [aRec] ∧ 4 ≤ ((emitting 4).tile 5).recs.length ∧
    ((emitting 3).tile 5).recs.length < 4 ∧ (scoring.tile 5).recs = [aRec] ∧ tileDie 5 = 0 ∧ scoring.policyGroups 0 = [4] ∧
    mapGet? scoring.configs 4 = some policyImage ∧ policyImage.score = some policyPlan ∧ (scoring.tile 5).samples = [] ∧
    aRec.patch < aRec.patches ∧ nth aRec.feats 0 8 ≤ 6 ∧ Untraced scoring ∧ Reached scoring ⟨false, aRec.dec⟩ (64 + 16 * aRec.patches) true ∧
    (shadowing.tile 5).samples.find? (fun y => y.slot = some 1) = some aSample ∧ aSample.scored.isSome = true ∧
    shadowing.poisonIn (shadowing.stageLoc 5 1).addr (2 * aSample.elements) = none ∧
    (∀ y ∈ (shadowing.tile 5).samples, y.wait = none) ∧
    (shadowing.rd Reg.CAL_LOG_HEAD.HEAD + 2 ^ 32 - shadowing.rd Reg.CAL_LOG_TAIL.TAIL) % 2 ^ 32 < 2 ^ shadowing.rd Reg.CAL_LOG_SIZE.LOG2 ∧
    Reached shadowing ⟨false, shadowing.rd Reg.CAL_LOG_BASE.ADDR⟩ 128 true := by decide +kernel

/-- Tile 5 lies on a held island. -/
def heldPolicy : State := set (emitting 3) [(Reg.ISL_STATE.STATE 0, Isl.HELD)]
theorem witness_policy_holds : heldPolicy.heldTile 5 = true ∧ heldPolicy.stopped = false ∧ (heldPolicy.tile 5).emit = [aRec] ∧
    (∀ n ∈ [3, 4], (emitting n).heldTile 5 = false ∧ (emitting n).stopped = false) ∧ scoring.stopped = false ∧
    scoring.heldTile 5 = false ∧ (∀ c ∈ scoring.policyGroups 0, c = 4) ∧
    (scoring.cfgTiles 4 policyImage.segs.length).any scoring.heldTile = false ∧ shadowing.stopped = false ∧
    shadowing.heldTile 5 = false ∧ aSample.scored = some ⟨2, 5, 0, [7]⟩ := by decide +kernel

/-! ## Stream engine -/

/-- MOVE: MODE, SRC, DST, BYTES, CHUNK, ROLE, PAIR, DEPTH and the curation operands. -/
def moveOp (mode src dst bytes chunk role : Nat) : Op :=
  opOf Cls.STREAM 0 [imm mode, refOp false src false, refOp false dst true, imm bytes, imm chunk, imm role, imm 3, imm 2,
    refOp false 40960 true, refOp false 45056 true, imm 0, imm 4, imm 2, imm 8]
def aPair (full empty : Nat) (ws : List Waiter) : Pair := ⟨1, 5, 3, 2, full, empty, ws⟩
def withPair (s : State) (p : Pair) : State := { s with se := { s.se with pairs := [p] } }
def copyState (o : Op) : State := withPair { running o with hbm := Memory.wrBytes [] 4096 [1, 2, 3, 4] } (aPair 0 2 [])
def plainCopy : Op := moveOp 0 4096 12288 5000 0 0
def chunkCopy : Op := moveOp 0 4096 12288 128 64 1
def moving1 (w : MoveWork) (o : Op) : State := copyState { o with work := .move w }
def moveW : MoveWork := ⟨plainCopy.xfers, [], 0, 1, 1⟩
def lastX : Xfer := ⟨⟨false, 4096⟩, ⟨false, 12288⟩, 64, 0⟩
def hostX : Xfer := ⟨⟨true, 4096⟩, ⟨false, 12288⟩, 64, 0⟩
def landing (todo : List Xfer) (out : List (Nat × Xfer)) : State := moving1 ⟨todo, out, 9, 1, 1⟩ plainCopy
theorem witness_move : (copyState plainCopy).opIs opKey Cls.STREAM 0 .running = some { plainCopy with st := .running } ∧
    plainCopy.xfers ≠ [] ∧ (moveOp 0 4096 12288 0 0 0).xfers = [] ∧ plainCopy.num 5 = 0 ∧ chunkCopy.num 5 ≠ 0 ∧ chunkCopy.xfers ≠ [] ∧
    (copyState chunkCopy).pair? 1 5 (chunkCopy.num 6) = some (aPair 0 2 []) ∧
    (moving1 moveW plainCopy).moveWork opKey = some ({ plainCopy with st := .running, work := .move moveW }, moveW) ∧
    (moveW.todo.takeWhile fun x => decide (x.chunk < 1)).take (min 16 100) = plainCopy.xfers ∧
    (∀ x ∈ plainCopy.xfers, Reached (moving1 moveW plainCopy) x.src x.len false ∧ Reached (moving1 moveW plainCopy) x.dst x.len true) ∧
    (moving1 moveW plainCopy).stackList.contains 11 = true ∧ (moving1 moveW plainCopy).muted = false ∧
    (moving1 moveW plainCopy).stage = Stage.READY := by decide +kernel
theorem witness_landing : (landing [] [(4, lastX)]).moveWork opKey =
      some ({ plainCopy with st := .running, work := .move ⟨[], [(4, lastX)], 9, 1, 1⟩ }, ⟨[], [(4, lastX)], 9, 1, 1⟩) ∧
    [(4, lastX)].find? (fun e => e.1 = 4) = some (4, lastX) ∧ [(4, hostX)].find? (fun e => e.1 = 4) = some (4, hostX) ∧
    hostX.src.host = true ∧ Reached (landing [] [(4, lastX)]) lastX.dst 64 true ∧ Untraced (landing [] [(4, lastX)]) ∧
    ([(4, lastX)].filter fun e => e.1 != 4) = [] ∧ ([(4, lastX), (5, lastX)].filter fun e => e.1 != 4) ≠ [] := by decide +kernel
theorem witness_no_overlap (l : Loc) : plainCopy.overlap l = false := by
  have h : plainCopy.locOf 1 = ⟨false, 4096⟩ ∧ plainCopy.locOf 2 = ⟨false, 12288⟩ ∧ plainCopy.num 3 = 5000 := by decide +kernel
  simp only [Op.overlap, h.1, h.2.1, h.2.2]
  simp
  omega

/-- A stack that is too hot; two transfers to one line; a fetch with a transfer to issue, and with one outstanding. -/
def hotLanding : State := set (landing [] [(4, lastX)]) [(Reg.MEM_HBM_TEMP.HOT ((landing [] []).stackOf 12288), 1)]
def fetchOp (todo : List Xfer) (out : List (Nat × Xfer)) : Op := { mmOp 9 9 10 with st := .staged, fetch := ⟨todo, out, 1⟩ }
def fetching1 (todo : List Xfer) (out : List (Nat × Xfer)) : State := withOp able (fetchOp todo out)
theorem witness_landing_holds : hotLanding.moveWork opKey = (landing [] [(4, lastX)]).moveWork opKey ∧
    hotLanding.tooHot lastX.dst 64 = true ∧ behindLine [(4, lastX), (5, lastX)] 5 lastX = true ∧
    behindLine [(4, lastX), (5, lastX)] 4 lastX = false ∧
    (∀ w ∈ [[], [lastX]], (landing w [(4, lastX)]).tooHot lastX.src 64 = false ∧ (landing w [(4, lastX)]).tooHot lastX.dst 64 = false ∧
      Reached (landing w [(4, lastX)]) lastX.src 64 false ∧ Reached (landing w [(4, lastX)]) lastX.dst 64 true) ∧
    (landing [] [(4, hostX)]).tooHot hostX.dst 64 = false := by decide +kernel
theorem witness_fetch : (∀ p ∈ [([lastX], []), ([], [(0, lastX)])], (fetching1 p.1 p.2).moveWork opKey = none ∧
      (fetching1 p.1 p.2).fetching opKey = some (fetchOp p.1 p.2, ⟨p.1, p.2, 1⟩) ∧ (fetching1 p.1 p.2).tooHot lastX.src 64 = false ∧
      Reached (fetching1 p.1 p.2) lastX.src 64 false) ∧
    [lastX].take (min 16 ((fetching1 [lastX] []).ctx 1).outstanding) = [lastX] ∧
    [((0 : Nat), lastX)].find? (fun e => e.1 = 0) = some (0, lastX) := by decide +kernel
/-- The flag ring at 40960 with HEAD 4; entries keep what `keep` says, with SEQ as their place. -/
def curating (mode : Nat) (keep : List Bool) (w : Option CurWork) : State :=
  let o := moveOp mode 16384 65536 4096 0 0
  let o := match w with
    | some w => { o with work := .curate w }
    | none => o
  let flags := (List.range 4).flatMap fun i =>
    leBytes 8 (i * 2 ^ 32 + (if mode = 1 then 2 ^ 16 else 1) * b2n (nth keep false i) + (if mode = 1 then 0x4000 else 0))
  { running o with hbm := Memory.wrBytes (Memory.wrBytes [] 40960 (leBytes 8 4)) 41024 flags }
def curW (i : Nat) : CurWork := ⟨0, i, 0, 0, none, 0, false⟩
theorem witness_curation : (∀ m ∈ [1, 2], ((curating m [] none).opIs opKey Cls.STREAM 0 .running).map (fun o => (o.work, o.num 0)) =
      some (.none, m) ∧ Reached (curating m [] none) ⟨false, 40960⟩ 64 false) ∧
    (∀ m ∈ [1, 2], ∀ keep ∈ [[false, false], [true, true]], ∀ i ∈ [0, 1],
      ((curating m keep (some (curW i))).opIs opKey Cls.STREAM 0 .running).map (fun o => (o.work, o.num 0, o.num 12, o.num 3)) =
        some (.curate (curW i), m, 2, 4096) ∧
      (curating m keep (some (curW i))).readNat ⟨false, 40960⟩ 8 = 4 ∧
      bitOf ((curating m keep (some (curW i))).readNat ⟨false, 41024 + 8 * i⟩ 8) (if m = 1 then 16 else 0) = nth keep false i) ∧
    Reached (curating 1 [] none) ⟨false, 40960⟩ 64 true ∧ Reached (curating 1 [] none) ⟨false, 45056⟩ 64 true ∧
    Reached (curating 1 [] none) ⟨false, 16384⟩ 64 true ∧ Reached (curating 1 [] none) ⟨false, 65536⟩ 64 true ∧ 0 + 64 ≤ 4096 := by
  decide +kernel

/-- RELAY of 64 bytes to the last offset of SRAM on tiles 0 and 1. -/
def relayOp : Op := opOf Cls.STREAM 1 [imm (2 ^ 23), refOp false 4096 false, imm 64, imm 131008]
def relaying : State := { running relayOp with hbm := Memory.wrBytes [] 4096 (List.range 64) }
theorem witness_relay : relaying.opIs opKey Cls.STREAM 1 .running = some { relayOp with st := .running } ∧
    Reached relaying ⟨false, 4096⟩ 64 false ∧ relayOp.tiles = [0, 1] := by decide +kernel

def semOp (code sem count : Nat) : Op := opOf Cls.STREAM code [imm 3, imm 2, imm sem, imm count]
def signalling (full : Nat) : State := withPair (running (semOp 2 0 1)) (aPair full 0 [])
def waiting : State := withPair (running (semOp 3 0 1)) (aPair 0 0 [])
def taking (full : Nat) (o : Op) : State := withPair (running o) (aPair full 0 [⟨opKey, 0, 1, 0⟩])
def semWaits : Op := { semOp 3 0 1 with work := .sem 0 }
def moveWaits : Op := { chunkCopy with work := .move ⟨chunkCopy.xfers, [], 0, 0, 2⟩ }
theorem witness_semaphores : (signalling 1).opIs opKey Cls.STREAM 2 .running = some { semOp 2 0 1 with st := .running } ∧
    (∀ n ∈ [1, 2], (signalling n).pair? 1 5 3 = some (aPair n 0 [])) ∧ (aPair 1 0 []).val 0 + 1 ≤ (aPair 1 0 []).depth ∧
    (aPair 2 0 []).depth < (aPair 2 0 []).val 0 + 1 ∧ waiting.opIs opKey Cls.STREAM 3 .running = some { semOp 3 0 1 with st := .running } ∧
    (∀ n ∈ [0, 1], (taking n semWaits).pair? 1 5 3 = some (aPair n 0 [⟨opKey, 0, 1, 0⟩])) ∧
    (aPair 0 0 [⟨opKey, 0, 1, 0⟩]).val 0 < 1 ∧ (taking 1 semWaits).op? opKey = some { semWaits with st := .running } ∧
    (taking 1 moveWaits).op? opKey = some { moveWaits with st := .running } := by decide +kernel
def huddleOp (work : Work) : Op := { opOf Cls.SYNC 4 [imm 0, imm 0xFFFF, imm 1, imm 7] with work := work }
theorem witness_huddle : (running (huddleOp .none)).opIs opKey Cls.SYNC 4 .running = some { huddleOp .none with st := .running } ∧
    ((running (huddleOp (.pending 1))).buf? 1 5).map (fun b => (b.huddle { huddleOp (.pending 1) with st := .running }).map fun p =>
      (p.st, p.work, p.tiles)) = some [(.running, .pending 1, [0])] ∧
    (running (huddleOp (.pending 1))).islSt 0 ≠ Isl.HELD := by decide +kernel

/-! ## Configuration and the match arrays -/

/-- TILE_CONFIG of tiles 0 and 1. -/
def cfgOp (duty : Nat) : Op := opOf Cls.SYNC 1 [imm (2 ^ 23), imm duty, refOp false 4096 false]
def pairImage : Image := { plainImage with segs := [plainSeg, plainSeg] }
def configuring (duty : Nat) : State :=
  (running (cfgOp duty)).modTile 0 fun t => { t with st := .config, ctx := 1, running := some opKey }
def polSeg : TileSeg :=
  { plainSeg with sram := (List.range 16).flatMap (fun _ => (List.range 15).flatMap fun i => leBytes 4 (100 * i) ++ []), sramSize := 4096 }
/-- One tree over one entry, on group position 0; thresholds in 60-byte tables. -/
def polPlan : ScorePlan :=
  { outputs := 8, link := 0, base := List.replicate 8 0, descs := (List.range 16).map fun k => 4 * k + 2 * 2 ^ 12 + 15 * 2 ^ 16 + 60 * k * 2 ^ 32,
    trees := [⟨[⟨0, 0, .t4⟩], [0], none, 1⟩], binner := 0, leaves := [⟨0, 0, 1, 1⟩], ruleBanks := [],
    ruleLayout := [], stride := 64, replicas := 1, segments := 1 }
def polImage (kind gen : Nat) : Image := { plainImage with segs := [polSeg, polSeg], score := some polPlan, kind := kind, gen := gen }
def polOp : Op := opOf Cls.SYNC 2 [imm (2 ^ 23), refOp false 4096 false]
def loadingPolicy : State := running polOp
def staging : State :=
  (loadingPolicy.modTile 0 fun t => { t with duty := 2, st := .ready, ctx := 1 }).modTile 1 fun t => { t with duty := 2, st := .ready, ctx := 1 }
theorem witness_configuration : (∀ d ∈ [0, 1], (configuring d).opIs opKey Cls.SYNC 1 .running = some { cfgOp d with st := .running }) ∧
    Reached (configuring 1) ⟨false, 4096⟩ 1 false ∧ (configuring 1).imageOk 1 pairImage 2 [0, 1] = true ∧
    (configuring 1).imageOk 1 plainImage 2 [0, 1] = false ∧ (cfgOp 1).tiles = [0, 1] ∧
    loadingPolicy.opIs opKey Cls.SYNC 2 .running = some { polOp with st := .running } ∧ loadingPolicy.policyOk (polImage 0 0) 2 = true ∧
    staging.policyOk (polImage 1 1) 2 = true ∧ (1 : Nat) ≠ staging.rd Reg.POLICY_CTRL.ACTIVE_GEN ∧
    (∀ x ∈ [0, 1], (staging.tile x).duty = 2 ∧ (staging.tile x).st ≠ .idle) ∧
    staging.rd Reg.POLICY_CTRL.ACTIVE_GEN = 0 := by decide +kernel
def loadingTiles (left : List Nat) : State :=
  { (running { cfgOp 1 with work := .load left }).modTile 1 fun t => { t with st := .config, ctx := 1, duty := 1, loading := some (3, 1, opKey) }
    with configs := [(3, pairImage)] }
theorem witness_loads : (∀ l ∈ [[1], [0, 1]], ((loadingTiles l).tile 1).loading = some (3, 1, opKey) ∧
      (loadingTiles l).op? opKey = some { cfgOp 1 with st := .running, work := .load l } ∧ ((loadingTiles l).tile 1).deck = none) ∧
    mapGet? (loadingTiles [1]).configs 3 = some pairImage ∧ ([1].filter (· != 1)) = [] ∧ ([0, 1].filter (· != 1)) ≠ [] := by
  decide +kernel

/-- Two policy tiles that their group's FULL load configured. -/
def staged2 : State :=
  (staging.modTile 0 fun t => { t with cfg := some 4 }).modTile 1 fun t => { t with cfg := some 4, pos := 1 }
theorem witness_staged_load : staged2.opIs opKey Cls.SYNC 2 .running = some { polOp with st := .running } ∧ staged2.policyOk (polImage 1 1) 2 = true ∧
    (∀ x ∈ polOp.tiles, (staged2.tile x).duty = 2 ∧ (staged2.tile x).cfg.isSome = true) ∧ Reached staged2 ⟨false, 4096⟩ 1 false ∧
    (∀ l ∈ [[1], [0, 1]], (loadingTiles l).heldTile 1 = false) ∧ ¬((cfgOp 1).code = 2 ∧ pairImage.kind = 1) := by decide +kernel
/-- An edit item on tile 4, for an op with two items left. -/
def item (code slot w1 : Nat) : EditItem := ⟨opKey, 0, none, code, slot, w1, 0x1234567800020008, 0xFFFF⟩
def editing (code slot w1 : Nat) : State :=
  (running { opOf Cls.SYNC 3 [imm 0, refOp false 4096 false, imm 1, imm 0] with work := .edit 2 none none }).modTile 4 fun t =>
    { t with edits := [item code slot w1, item 4 0 0], tma := [(1, ⟨5, 0xFF, 2, 0, true, 8⟩), (511, ⟨6, 0xFF, 3, 1, false, 0⟩)], duty := 4,
             st := .ready, ctx := 1 }
theorem witness_edit_items : (∀ c ∈ [1, 2, 3, 4, 5, 6, 7], ∀ a ∈ [0, 1, 511],
      (editing c a 0xA5FF01F3).stopped = false ∧ ((editing c a 0xA5FF01F3).tile 4).edits = [item c a 0xA5FF01F3, item 4 0 0] ∧
      (item c a 0xA5FF01F3).op = c ∧ (item c a 0xA5FF01F3).gate = none ∧ (item 4 0 0).op ≠ 0 ∧
      (editing c a 0xA5FF01F3).op? opKey =
        some { opOf Cls.SYNC 3 [imm 0, refOp false 4096 false, imm 1, imm 0] with st := .running, work := .edit 2 none none }) ∧
    (((editing 2 511 0).tile 4).slot (((editing 2 511 0).tile 4).firstOf 511)).valid = false ∧
    ((editing 2 511 0).tile 4).isFirst 511 = true ∧
    (((editing 2 1 0).tile 4).slot (((editing 2 1 0).tile 4).firstOf 1)).valid = true := by decide +kernel

/-- A TMA_EDIT of three items on tiles 0 and 1: VALID everywhere, PF on position 1, then `last`. -/
def listOp (n : Nat) : Op := opOf Cls.SYNC 3 [imm (2 ^ 23), refOp false 4096 false, imm n, imm 0]
def editList (last : Nat) : List Nat :=
  let it := fun (op slot pos w1 : Nat) => leBytes 8 (op + slot * 16 + pos * 65536) ++ leBytes 8 w1 ++ List.replicate 48 0
  it 3 7 0xFFFF 0 ++ it 4 15 1 0xFF ++ it 6 0 0 last
def listing (duty : Nat) : State :=
  { ((running (listOp 3)).modTile 0 fun t => { t with duty := duty, st := .ready, ctx := 1 }) with
    hbm := Memory.wrBytes [] 4096 (editList 2) }
theorem witness_tma_edit : (∀ d ∈ [3, 4], (listing d).opIs opKey Cls.SYNC 3 .running = some { listOp 3 with st := .running } ∧
      Reached (listing d) ⟨false, 4096⟩ 192 false) ∧ (listOp 3).ref? 1 = some (plainRef ⟨false, 4096⟩ false) ∧ (listOp 3).tiles = [0, 1] ∧
    (let its := (List.range 3).map (editAt (editList 2))
     (∀ i, i < 3 → (listing 3).flipRefused [0, 1] its i = false) ∧ (∀ it ∈ its, (listing 3).itemBad [0, 1] it = false) ∧
     (∀ it ∈ its, it.1 ≠ 0) ∧ (∀ x ∈ [0, 1], ((listing 3).tile x).edits = []) ∧ (listing 4).flipRefused [0, 1] its 2 = true) ∧
    (listing 3).read ⟨false, 4096⟩ 192 = editList 2 := by decide +kernel

/-- The same list in band, beside a scoring stream on tile 0 whose replica has scored three records. -/
def bandOp : Op := opOf Cls.SYNC 3 [imm (2 ^ 23), refOp false 4096 false, imm 3, imm 1]
def bandScore : Op := { opOf Cls.FILTAS 0 [imm 0, refOp false 65536 true, imm 8, imm 0, imm 0, imm 0, imm 0, imm 0, imm 0, imm 0] with
  id := 8, st := .running, work := .pending 0 }
def inBandList : State :=
  { listing 3 with
    fe := { (listing 3).fe with bufs := [⟨1, 5, false, false, 0, 0, true, [{ bandOp with st := .running }, bandScore]⟩] }
    se := { (listing 3).se with streams := [⟨1, 5, ⟨false, 65536⟩, [⟨1, 5, 8⟩], 0, [3], [], 0, 0, none⟩] } }
theorem witness_in_band : inBandList.opIs opKey Cls.SYNC 3 .running = some { bandOp with st := .running } ∧
    inBandList.streamOn 1 [0, 1] = some (⟨1, 5, 8⟩, bandScore) ∧ inBandList.nextUnsent ⟨1, 5, 8⟩ bandScore = 3 ∧
    (let its := (List.range 3).map (editAt (editList 2))
     (∀ i, i < 3 → inBandList.flipRefused [0, 1] its i = false) ∧ (∀ it ∈ its, inBandList.itemBad [0, 1] it = false) ∧
     (∀ x ∈ [0, 1], (inBandList.tile x).edits = []) ∧ its ≠ [] ∧ [0, 1].Nodup) ∧
    inBandList.read ⟨false, 4096⟩ 192 = editList 2 ∧ (editing 2 1 0).heldTile 4 = false := by decide +kernel
def liveSlot : State := able.modTile 4 fun t => { t with tma := [(511, ⟨5, 0xFF, 2, 0, true, 8⟩)], st := .ready, ctx := 1, duty := 3 }
theorem witness_scrubbers : liveSlot.stopped = false ∧ 511 < 512 ∧ ((liveSlot.tile 4).slot ((liveSlot.tile 4).firstOf 511)).valid = true ∧
    (liveSlot.tile 4).st ≠ .idle ∧ 16383 < 16384 ∧ 0xBFFFFFFFFF < liveSlot.hbmTop ∧
    liveSlot.poison.contains (0xBFFFFFFFFF / 32 * 32) = false := by decide +kernel

theorem witness_scrubbers_run : liveSlot.tileRuns 4 = true ∧ (liveSlot.tile 4).badWords.contains 16383 = false ∧
    liveSlot.on (Reg.MEM_HBM_TEMP.HOT (liveSlot.stackOf (0xBFFFFFFFFF / 32 * 32))) = false ∧ (3 : Nat) ≠ 9 ∧ Untraced liveSlot := by
  decide +kernel

/-! ## Scoring -/

/-- SCORE on tile 0: ring at 4096 with eight places of 64 bytes, results at 12288 with four places, CUR at 20480. -/
def scoreOp (replicas check dest : Nat) : Op :=
  opOf Cls.FILTAS 0 [imm 0, refOp false 4096 true, imm 8, imm 0, imm 0, imm 0, imm (replicas - 1), imm 0, imm 0, imm check, imm dest,
    imm 0, refOp (dest == 0) 12288 true, imm 4, refOp false 20480 false]
/-- The ring's HEAD and EOS. -/
def ringBytes (head eos : Nat) : List Nat := leBytes 8 head ++ leBytes 8 eos
def scoreState (o : Op) (head eos : Nat) (xs : List Stream) : State :=
  { (running o).modTile 0 fun t => { t with cfg := some 4, st := .busy, ctx := 1, duty := 3 } with
    configs := [(4, policyImage)], hbm := Memory.wrBytes [] 4096 (ringBytes head eos), se := { up.se with streams := xs } }
def aStream (results : List ScoreRes) (done delivered tail : Nat) (stall : Option Nat) : Stream :=
  ⟨1, 5, ⟨false, 4096⟩, [opKey], 0, [done], results, delivered, tail, stall⟩
def aResult : ScoreRes := ⟨0, 0, [1, 2, 3, 4, 5, 6, 7, 8], true, false, false, false, 1, []⟩
def pending0 (o : Op) : Op := { o with work := .pending 0 }
def streaming (head : Nat) : State := scoreState (pending0 (scoreOp 1 0 0)) head 0 [aStream [] 0 0 0 none]
theorem witness_score : (scoreState (scoreOp 1 0 0) 3 0 []).opIs opKey Cls.FILTAS 0 .running = some { scoreOp 1 0 0 with st := .running } ∧
    Reached (scoreState (scoreOp 1 0 0) 3 0 []) ⟨false, 4096⟩ 64 false ∧ Reached (scoreState (scoreOp 1 0 0) 3 0 []) ⟨true, 12296⟩ 8 false ∧
    ([] ++ [opKey]).length = ((scoreOp 1 0 0).num 6 + 1) * ((scoreOp 1 0 0).num 8 + 1) ∧
    ([] ++ [opKey]).length ≠ ((scoreOp 2 0 0).num 6 + 1) * ((scoreOp 2 0 0).num 8 + 1) ∧
    (streaming 1).op? opKey = some { pending0 (scoreOp 1 0 0) with st := .running } ∧
    (streaming 1).streamOf opKey = some (aStream [] 0 0 0 none) ∧ (aStream [] 0 0 0 none).started (scoreOp 1 0 0) = true ∧
    ((streaming 1).replicaOps (aStream [] 0 0 0 none) 0).flatMap (fun p => p.2.tiles) = [0] ∧ ((streaming 1).tile 0).edits = [] ∧
    (streaming 1).islSt 0 ≠ Isl.HELD ∧ (streaming 1).beforeEnd (aStream [] 0 0 0 none) (scoreOp 1 0 0) 0 = true ∧
    Untraced (streaming 1) ∧ (streaming 0).readNat ⟨false, 4096⟩ 8 % 2 ^ 48 ≤ 0 ∧ 0 < (streaming 1).readNat ⟨false, 4096⟩ 8 % 2 ^ 48 ∧
    Reached (streaming 1) ⟨false, 4160⟩ 64 false := by decide +kernel
def delivering (dest eos tail : Nat) : State :=
  scoreState (pending0 (scoreOp 1 0 dest)) 1 eos [aStream [aResult] 1 0 tail (some 0)]
def ended : State := delivering 0 (2 ^ 63) 0
def crammed : State := delivering 0 0 (2 ^ 64 - 4)
theorem witness_delivery : (∀ d ∈ [0, 1, 2], (delivering d 0 0).streamOf opKey = some (aStream [aResult] 1 0 0 (some 0)) ∧
      (delivering d 0 0).beforeEnd (aStream [aResult] 1 0 0 (some 0)) (scoreOp 1 0 d) 0 = true ∧ (scoreOp 1 0 d).num 9 = 0 ∧
      (delivering d 0 0).ringRoom (aStream [aResult] 1 0 0 (some 0)) (scoreOp 1 0 d) = true ∧
      Reached (delivering d 0 0) ⟨d == 0, 12352⟩ 64 true ∧ Reached (delivering d 0 0) ⟨d == 0, 12288⟩ 8 true ∧
      Reached (delivering d 0 0) ⟨false, 4112⟩ 8 true ∧ (delivering d 0 0).se.streams = [aStream [aResult] 1 0 0 (some 0)]) ∧
    Reached (delivering 2 0 0) ⟨false, 20480⟩ 16 false ∧ ended.beforeEnd (aStream [aResult] 1 0 0 (some 0)) (scoreOp 1 0 0) 0 = false ∧
    crammed.ringRoom (aStream [aResult] 1 0 (2 ^ 64 - 4) (some 0)) (scoreOp 1 0 0) = false ∧
    [aResult].find? (fun q => q.num = 0 && q.replica = 0 % (scoreOp 1 0 0).stride) = some aResult ∧
    ([((⟨true, 12352⟩ : Loc), 64), (⟨true, 12288⟩, 8), (⟨false, 4112⟩, 8)].Pairwise fun p q =>
      p.1.host ≠ q.1.host ∨ p.1.addr + p.2 ≤ q.1.addr ∨ q.1.addr + q.2 ≤ p.1.addr) := by decide +kernel

/-! ## Patterns -/

/-- PATTERN on tile 0: ring at 4096, automaton IDs at 8192, outputs at 12288, reports at 16384, summaries in host memory at 20480. -/
def patOp : Op :=
  opOf Cls.PATTERN 0 [imm 0, refOp false 4096 true, imm 8, imm 0, imm 0, refOp false 8192 false, imm 0, imm 1, refOp false 12288 true,
    refOp false 16384 true, imm 4, imm 1, refOp true 20480 true, imm 0x2A]
def patImage : Image :=
  { plainImage with pat := some ⟨[⟨9, [0], 0xFF00, 0, 256⟩], 0, copySize, none⟩ }
/-- Records 0 and 1: two bytes, and a bad length; automaton 9 goes from state 0 to its accepting state on every byte. -/
def patState (o : Op) (eos : Nat) : State :=
  { (running o).modTile 0 fun t =>
      { t with cfg := some 6, st := .busy, ctx := 1, duty := 4, tma := [(0, ⟨9 * 2 ^ 32, 0x3FF0000FFFF, 0xFF00, 0, true, 26⟩)] } with
    configs := [(6, patImage)],
    hbm := Memory.wrBytes (Memory.wrBytes (Memory.wrBytes (Memory.wrBytes [] 4096 (ringBytes 2 eos)) 4160 (leBytes 8 2 ++ [65, 66])) 4224
      (leBytes 8 57)) 8192 [9, 0] }
def lane (st : LaneSt) (num bytes off : Nat) : Lane := ⟨st, num, bytes, off, [0], [], 0, [], true, false⟩
def patWork (next : Nat) (lanes : List Lane) (stall : Option Nat) (outTail : Nat) : PatWork := ⟨0, next, 0, 0, lanes, stall, outTail, outTail, outTail⟩
def scanning (w : PatWork) (eos : Nat) : State := patState { patOp with work := .pattern w } eos
def freeLanes (next : Nat) : PatWork := patWork next [Lane.empty, Lane.empty] none 0
def busyLanes (l : Lane) : PatWork := patWork 1 [Lane.empty, l] none 0
def flushing (reports : Nat) : Lane :=
  { lane .flush 0 2 2 with reports := List.replicate reports ⟨1, 9, 3⟩, marks := [(0, 1)] }
theorem witness_pattern : (patState patOp 0).opIs opKey Cls.PATTERN 0 .running = some { patOp with st := .running } ∧
    Reached (patState patOp 0) ⟨false, 4096⟩ 64 false ∧ Reached (patState patOp 0) ⟨false, 8192⟩ 2 false ∧
    (∀ a ∈ patOp.tailAccs, Reached (patState patOp 0) a.loc a.len false) ∧
    (∀ n ∈ [0, 1], ((scanning (freeLanes n) 0).patWork opKey).map (·.2) = some (freeLanes n) ∧
      (scanning (freeLanes n) 0).groupHeld patOp.tiles = false ∧ Untraced (scanning (freeLanes n) 0) ∧
      (scanning (freeLanes n) 0).patBefore patOp (freeLanes n) n = true ∧
      findPos (fun (l : Lane) => decide (l.st = .free)) (freeLanes n).lanes = some 0 ∧ ((scanning (freeLanes n) 0).tile 0).edits = [] ∧
      n < (scanning (freeLanes n) 0).readNat ⟨false, 4096⟩ 8 % 2 ^ 48) ∧
    (scanning (freeLanes 0) 0).readNat ⟨false, 4160⟩ 4 ≤ 56 ∧ ¬ (scanning (freeLanes 1) 0).readNat ⟨false, 4224⟩ 4 ≤ 56 := by decide +kernel
theorem witness_pattern_byte : (∀ off ∈ [1, 2], ((scanning (busyLanes (lane .scan 0 2 off)) 0).patWork opKey).map (·.2) =
      some (busyLanes (lane .scan 0 2 off)) ∧ (busyLanes (lane .scan 0 2 off)).lanes[1]? = some (lane .scan 0 2 off) ∧
      (lane .scan 0 2 off).states.length = patOp.num 6 + 1 ∧
      nextState (scanning (busyLanes (lane .scan 0 2 off)) 0) patOp [] 9 0 (some 65) = 0xFF00) := by decide +kernel
theorem witness_flush : (∀ n ∈ [1, 5], ((scanning (busyLanes (flushing n)) 0).patWork opKey).map (·.2) = some (busyLanes (flushing n)) ∧
      (busyLanes (flushing n)).lanes[1]? = some (flushing n) ∧ (flushing n).num = (busyLanes (flushing n)).flushed ∧
      flushRoom (scanning (busyLanes (flushing n)) 0) patOp (busyLanes (flushing n)) (flushing n) = decide (n ≤ 4)) ∧
    0 < patOp.num 2 ∧ 0 < patOp.num 10 ∧ 8 + (flushing 1).bytes ≤ 64 * (patOp.num 3 + 1) ∧
    (∀ r ∈ [((⟨false, 12288⟩ : Loc), 576), (⟨false, 16384⟩, 128), (⟨true, 20480⟩, 128), (⟨false, 4112⟩, 8)],
      Reached (scanning (busyLanes (flushing 1)) 0) r.1 r.2 true) := by decide +kernel
theorem witness_tail_poll : (∀ b ∈ [some 3, none], ((scanning (patWork 0 [Lane.empty] b 5) 0).patWork opKey).map (·.2) =
      some (patWork 0 [Lane.empty] b 5)) ∧ crammed.patWork opKey = none ∧ crammed.streamOf opKey = some (aStream [aResult] 1 0 (2 ^ 64 - 4) (some 0)) ∧
    Reached crammed ⟨true, 12296⟩ 8 false := by decide +kernel

/-- A stalled stream whose oldest record waits in FLUSH, with room in its rings after the poll and without; the ring of a SCORE stream
whose TAIL now shows room. -/
def polled (full : Bool) : State := scanning { busyLanes (flushing (if full then 5 else 1)) with stall := some 3 } 0
def polledWork (full : Bool) : PatWork := { busyLanes (flushing (if full then 5 else 1)) with stall := some 3 }
def opened : State := { crammed with hostMem := Memory.wrBytes [] 12296 (leBytes 8 0) }
def stillFull : State := { crammed with hostMem := Memory.wrBytes [] 12296 (leBytes 8 (2 ^ 64 - 4)) }
theorem witness_poll_ends : (∀ b ∈ [true, false], ((polled b).patWork opKey).map (·.2) = some (polledWork b) ∧ (polledWork b).stall ≠ none ∧
      ((polledWork b).lanes.find? fun l => l.st = .flush && l.num = (polledWork b).flushed) = some (flushing (if b then 5 else 1)) ∧
      (polled b).patRoom patOp ((polled b).sampleTails patOp (polledWork b)) (flushing (if b then 5 else 1)) = !b ∧
      ∀ a ∈ patOp.tailAccs, Reached (polled b) a.loc a.len false) ∧
    (∀ s ∈ [opened, stillFull], s.patWork opKey = none ∧ s.streamOf opKey = some (aStream [aResult] 1 0 (2 ^ 64 - 4) (some 0)) ∧
      Reached s ⟨true, 12296⟩ 8 false) ∧
    opened.ringRoom (aStream [aResult] 1 0 (opened.readNat ⟨true, 12296⟩ 8) (some 0)) (scoreOp 1 0 0) = true ∧
    stillFull.ringRoom (aStream [aResult] 1 0 (stillFull.readNat ⟨true, 12296⟩ 8) (some 0)) (scoreOp 1 0 0) = false ∧
    (scoreOp 1 0 0).num 10 = 0 ∧ (streaming 1).heldTile 0 = false := by decide +kernel

/-! ## Collectives -/

/-- A collective of two ranks, this one rank 0, over Ethernet or links: SRC at 4096, DST at 8192, rank table at 12288. -/
def collOp (code net straggler : Nat) : Op :=
  opOf Cls.COLLECTIVE code [.ref (tensorRef 4096 false (plainTensor 10 64 32)), .ref (tensorRef 8192 true (plainTensor 10 64 32)), imm 9,
    refOp false 12288 false, imm 2, imm 0, imm 0x77, imm net, imm straggler, imm 5, imm 0, .null, .null, .null, refOp false 16384 true]
def collState (s : State) (o : Op) (table : List Nat) : State :=
  { withOp s { o with st := .running } with hbm := Memory.wrBytes [] 12288 (table.flatMap (leBytes 8)) }
/-- Queue pair 3 of port 5 leads to rank 1. -/
def ethEntry : Nat := 5 * 2 ^ 24 + 3
def overEth (code : Nat) : State := collState { able with qps := [aQp] } (collOp code 1 0) [0, ethEntry]
/-- Modules 0 and 1 side by side. -/
def linked : State :=
  { set able [(Reg.LINK_DOMAIN.DX, 1), (Reg.LINK_PORT.STATE 0, Port.UP), (Reg.LINK_PORT.STATE 6, Port.UP), (Reg.LINK_PORT.STATE 12, Port.UP)]
    with dom := { able.dom with members := [0, 1], ports := [(0, 0x3FFFF), (1, 0x3FFFF)] } }
def overLink (code : Nat) : State := collState linked (collOp code 0 0) [0, 1]
theorem witness_coll_start : (∀ c ∈ [0, 1, 2], (overEth c).opIs opKey Cls.COLLECTIVE c .running = some { collOp c 1 0 with st := .running } ∧
      (overEth c).rd Reg.LINK_STATUS.MSTATE ≠ 3 ∧ (overEth c).qpsBad opKey (collOp c 1 0) [0, ethEntry] = false ∧
      ((List.range 2).map fun i => (overEth c).readNat ((collOp c 1 0).locOf 3 |>.plus (8 * i)) 8) = [0, ethEntry] ∧
      Reached (overEth c) ⟨false, 12288⟩ 16 false ∧ Reached (overEth c) ⟨false, 4096⟩ (plainTensor 10 64 32).extent false ∧
      Reached (overEth c) ⟨false, 8192⟩ ((collOp c 1 0).collE * elemSize 10) true ∧
      Reached (overEth c) ⟨false, 16384⟩ (payloadSize 9 (32 * shardMax (collOp c 1 0).collB 2)) true ∧ (overEth c).dom.early = []) ∧
    (∀ c ∈ [0, 1, 2], (overLink c).tableBad (collOp c 0 0) [0, 1] = false ∧ (∀ m ∈ [0, 1], (overLink c).planesTo (m % 4096) ≠ []) ∧
      ((List.range 2).map fun i => (overLink c).readNat ((collOp c 0 0).locOf 3 |>.plus (8 * i)) 8) = [0, 1]) ∧
    (set (overEth 0) [(Reg.LINK_STATUS.MSTATE, 3)]).rd Reg.LINK_STATUS.MSTATE = 3 := by decide +kernel
def collWork (msgs : List CollMsg) : CollWork :=
  ⟨0x77, [0, ethEntry], [[1, 2], [3, 4]], [], msgs, [], [], false, none, [], 0⟩
def ownMsg : CollMsg := ⟨0, 0, [(0, List.replicate 64 0)], some 0, some 0⟩
def peerMsg : CollMsg := ⟨0, 1, [(0, List.replicate 64 1)], none, none⟩
def reducing (straggler : Nat) (w : CollWork) : State :=
  collState { able with qps := [aQp] } { collOp 0 1 straggler with work := .coll w } [0, ethEntry]
def redOp (straggler : Nat) (w : CollWork) : Op := { collOp 0 1 straggler with st := .running, work := .coll w }
theorem witness_coll_data : (∀ w ∈ [collWork [ownMsg], collWork [ownMsg, peerMsg], collWork []],
      (reducing 0 w).collOf 0x77 = some opKey ∧ (reducing 0 w).coll? opKey = some (redOp 0 w, w) ∧ (reducing 0 w).stopped = false ∧
      (reducing 0 w).collOf 0x78 = none) ∧ (collOp 0 1 0).overEth = true ∧ (collOp 0 1 0).code = Coll.REDUCE_SCATTER ∧
    (collOp 0 1 0).myRank = 0 ∧ (reducing 0 (collWork [])).sc.lateWait = [] ∧
    ((⟨0, 1, [], none, none⟩ : CollMsg).mark 0 false [7] 0).done = none ∧ (peerMsg.mark 1 true [7] 0).done.isSome = true ∧
    (contributions 0 2 [peerMsg.mark 1 true [7] 0]).length < 2 ∧ (contributions 0 2 [ownMsg, peerMsg.mark 1 true [7] 0]).length = 2 ∧
    Reached (reducing 0 (collWork [ownMsg, peerMsg])) ⟨false, 8192⟩ 128 true := by decide +kernel
def nearly : CollWork := { collWork [ownMsg] with ready := [1], sent := [(1, 1)], judged := true, got := [0] }
theorem witness_coll_end : collComplete (redOp 0 nearly) { nearly with acked := [(1, 1)] } = true ∧ (1, 1) ∉ nearly.acked ∧
    collComplete (redOp 0 (collWork [])) { collWork [] with acked := [(1, 1)] } = false ∧
    (reducing 0 nearly).collOf 0x77 = some opKey ∧ (landing [] [(4, lastX)]).xferAt 4159 = some (opKey, 4) ∧
    (landing [] [(4, lastX)]).collOf 0x77 = none ∧ (∀ m ∈ [0, 1], (reducing m (collWork [ownMsg])).coll? opKey =
      some (redOp m (collWork [ownMsg]), collWork [ownMsg]) ∧ (redOp m (collWork [ownMsg])).reduces = true ∧
      (redOp m (collWork [ownMsg])).num 8 = m ∧ (redOp m (collWork [ownMsg])).det = false) ∧
    (contributions 0 2 [ownMsg]).length = 1 ∧ (contributions 0 2 []).length = 0 := by decide +kernel

/-- READY that has come early, a dropped MOVE that a NACK names, and the two sides of a straggler deadline. -/
def earlyReady : State := { able with dom := { able.dom with early := [(0x77, 1, true)] } }
def droppedCopy : State := { able with se := { able.se with dropped := [(opKey, { plainCopy with st := .running, work := .move ⟨[], [(4, lastX)], 9, 1, 1⟩ })] } }
def strag (msgs : List CollMsg) : State := reducing 1 (collWork msgs)
theorem witness_coll_times : earlyReady.collOf 0x77 = none ∧ (0x77, 1, true) ∈ earlyReady.dom.early ∧ earlyReady.stopped = false ∧
    droppedCopy.collOf 0x77 = none ∧ droppedCopy.xferAt 4159 = none ∧ droppedCopy.droppedAt 4159 = some (opKey, 4) ∧
    shardDeadline (redOp 1 (collWork [ownMsg])) (collWork [ownMsg]) = 5000 ∧ (strag [ownMsg]).now < 5000 ∧
    5000 ≤ (late (strag [ownMsg])).now ∧ (late (strag [ownMsg])).coll? opKey = some (redOp 1 (collWork [ownMsg]), collWork [ownMsg]) ∧
    (∀ m ∈ [ownMsg], ∀ d, m.done = some d → d ≤ 5000) ∧ (collWork [ownMsg]).judged = false ∧
    (late (strag [])).coll? opKey = some (redOp 1 (collWork []), collWork []) ∧
    shardDeadline (redOp 1 (collWork [])) (collWork []) ≤ (late (strag [])).now ∧ (late (strag [])).stopped = false ∧
    (collWork [ownMsg, peerMsg]).judged = false ∧ (collWork [ownMsg, peerMsg]).chosen = 0 ∧ (redOp 0 (collWork [])).num 8 = 0 := by
  refine ⟨by decide +kernel, by decide +kernel, by decide +kernel, by decide +kernel, by decide +kernel, by decide +kernel,
    by decide +kernel, by decide +kernel, by decide +kernel, by decide +kernel, ?_, by decide +kernel, by decide +kernel,
    by decide +kernel, by decide +kernel, by decide +kernel, by decide +kernel, by decide +kernel⟩
  intro m hm d hd
  simp [ownMsg] at hm
  simp [hm] at hd
  omega

/-! ## The step controller -/

/-- A STEP op in context 1, training context 3. -/
def stepState (base : State) (l : List (Fld × Nat)) (o : Op) : State :=
  withOp (set (base.setCtx 3 { Ctx.reset 3 with st := .active, rank := 3 }) (l ++ [(Reg.SC_CTRL.TRAIN_CTX, 3)])) { o with st := .running }
def commitOp (step scope : Nat) : Op := opOf Cls.STEP 0 [imm step, imm scope, imm 100]
def alone (s : State) : State := { s with dom := { s.dom with members := [0], membership := [0] } }
def voting (scope : Nat) : State := stepState (alone able) [(Reg.SC_STATUS.PHASE, Phase.VOTING)] (commitOp 0 scope)
/-- Module 1 of a domain of two. -/
def second : State := set linked [(Reg.LINK_DOMAIN.X, 1), (Reg.SC_STATUS.PHASE, Phase.VOTING), (Reg.LINK_PORT.STATE 1, Port.UP)]
def secondMap : State := { second with dom := { second.dom with ports := [(0, 0x3FFFF), (1, 0x3FFFF)] } }
theorem witness_vote_formed :
    (∀ s ∈ [stepState secondMap [] (commitOp 0 1), voting 0, stepState (alone able) [(Reg.SC_STATUS.PHASE, Phase.VOTING)] (commitOp 9 0)],
      (s.opIs opKey Cls.STEP 0 .running).isSome = true ∧ s.stopped = false ∧ s.phase = Phase.VOTING ∧ s.shadowWaits false = false ∧
      s.on Reg.SC_CTRL.REPLAY = false) ∧
    (stepState secondMap [] (commitOp 0 1)).root? = some 0 ∧ (stepState secondMap [] (commitOp 0 1)).myIndex = 1 ∧
    (stepState secondMap [] (commitOp 0 1)).planesTo 0 ≠ [] ∧ (voting 0).dom.members = [(voting 0).myIndex] ∧
    (voting 0).dims = (1, 1, 1) ∧ (voting 0).sc.flip = none ∧ (voting 0).sc.half = false ∧ (voting 0).voteReady 0 = true ∧
    (voting 0).voteReady 9 = false ∧ (voting 0).rd Reg.SC_STATUS.COMMIT_SLOT < 2 ∧
    (voting 0).rd (pinFld ((voting 0).rd Reg.SC_STATUS.COMMIT_SLOT)) = 0 := by decide +kernel
def rooted : State := { linked with dom := { linked.dom with membership := [0, 1] } }
def withVote : State := { rooted with dom := { rooted.dom with votes := [⟨1, 0, 0, true, 0⟩] } }
theorem witness_votes : rooted.isRoot = true ∧ rooted.dom.elected = none ∧ rooted.dom.decided = none ∧ rooted.dom.votes = [] ∧
    rooted.dom.epoch ≤ 0 ∧ (∀ m ∈ rooted.dom.membership, m ∈ rooted.dom.members) ∧
    rooted.dims.1 * rooted.dims.2.1 * rooted.dims.2.2 < 2 * rooted.dom.members.length ∧ (∃ m ∈ rooted.dom.membership, m ≠ 1) ∧
    withVote.dom.votes = [⟨1, 0, 0, true, 0⟩] ∧ withVote.isRoot = true ∧ second.isRoot = false := by decide +kernel
/-- A STEP_COMMIT that has voted. -/
def votedState (scope : Nat) (l : List (Fld × Nat)) : State :=
  let s := stepState able ((Reg.SC_STATUS.PHASE, Phase.VOTING) :: l) { commitOp 0 scope with work := .pending 0 }
  { s with sc := { s.sc with commit := some opKey, scope := scope } }
def resolving (phase step : Nat) : State := set able [(Reg.SC_STATUS.PHASE, phase), (Reg.SC_RESOLVE_STEP.STEP, step)]
theorem witness_decisions : (∀ n ∈ [0, 1], (votedState n []).phase = Phase.VOTING ∧ (votedState n []).voted = true ∧
      (votedState n []).sc.flip = none ∧ (votedState n []).sc.commit = some opKey ∧ (votedState n []).sc.scope = n ∧
      (votedState n []).sc.half = false ∧ (votedState n []).stopped = false) ∧
    (votedState 0 []).rd (pinFld ((votedState 0 []).rd Reg.SC_STATUS.COMMIT_SLOT)) = 0 ∧
    (votedState 0 [(Reg.SC_STATUS.PIN0, 1)]).rd (pinFld 0) ≠ 0 ∧ (votedState 0 []).on Reg.SC_CTRL.SNAP_POLICY = false ∧
    (∀ p ∈ [Phase.PREPARED, Phase.IN_DOUBT], (resolving p 0).valid = true ∧ (resolving p 0).phase = p ∧ (resolving p 0).sc.flip = none ∧
      (resolving p 0).rd Reg.SC_RESOLVE_STEP.STEP = (resolving p 0).rd Reg.SC_STEP.COUNT ∧ (resolving p 0).sc.half = false ∧
      (resolving p 1).rd Reg.SC_RESOLVE_STEP.STEP ≠ (resolving p 1).rd Reg.SC_STEP.COUNT) := by decide +kernel
theorem witness_vote_times : (voting 0).dom.departed = false ∧ (voting 0).resolveWaits = false ∧ rooted.dom.departed = false ∧
    (voting 0).dom.votes = [] ∧ (voting 0).dom.decided = none ∧ (voting 0).dom.elected = none ∧ withVote.voteDue = true ∧
    ({ votedState 0 [] with dom := { withVote.dom with voteTime := 0 }, sc := { (votedState 0 []).sc with deadline := 1 } } : State).voteDue = false ∧
    (votedState 0 []).resolveWaits = false ∧ withVote.stopped = false := by decide +kernel
/-- A vote whose deadline is 100 µs. -/
def patient (now : Nat) : State := { votedState 0 [] with now := now, sc := { (votedState 0 []).sc with deadline := 100 } }
theorem witness_decision_times : (∀ n ∈ [199999, 200000], (patient n).phase = Phase.VOTING ∧ (patient n).voted = true ∧
      (patient n).sc.flip = none ∧ (patient n).sc.commit = some opKey ∧ (patient n).stopped = false) ∧
    (patient 199999).now < (patient 199999).sc.votedAt + 2000 * (patient 199999).sc.deadline ∧
    (patient 200000).sc.votedAt + 2000 * (patient 200000).sc.deadline ≤ (patient 200000).now ∧
    (∀ p ∈ [Phase.PREPARED, Phase.IN_DOUBT], (resolving p 0).resolveWaits = false) := by decide +kernel
/-- A snapshot of one region of 64 bytes, its list at 4096, its status at 24576. -/
def snapshotOp : Op :=
  opOf Cls.STEP 1 [refOp false 4096 false, imm 1, imm (5 * 2 ^ 24 + 3), imm 0x11, imm 0x100, refOp false 24576 true]
/-- Its slot 0 pinned at its dispatch, for step 7. -/
def pinnedOp : Op := { snapshotOp with work := .snap 0 7 [] false }
def regionBytes : List Nat := leBytes 4 1 ++ leBytes 4 1 ++ leBytes 8 8192 ++ leBytes 8 64 ++ leBytes 8 0
def regioned (s : State) : State :=
  { s with fe := { s.fe with relocs := [⟨1, 1, false, 0, 2 ^ 30, 3⟩] }, qps := [aQp] }
def snapState (owner : Nat) (o : Op) : State :=
  { regioned (stepState able [] o) with qps := [{ aQp with owner := owner }], hbm := Memory.wrBytes [] 4096 regionBytes }
def regions : List (Loc × Nat × Nat) := [(⟨false, 8192⟩, 64, 0)]
def snapping : State := set (snapState 1 { snapshotOp with work := .snap 0 7 regions false }) [(Reg.SC_STATUS.PIN0, 1)]
theorem witness_snapshot : (∀ c ∈ [1, 2], (snapState c pinnedOp).opIs opKey Cls.STEP 1 .running = some { snapshotOp with st := .running, work := .snap 0 7 [] false } ∧
      Reached (snapState c pinnedOp) ⟨false, 4096⟩ 32 false ∧
      allSome ((List.range 1).map fun i => (snapState c pinnedOp).snapRegion 1 0
        ((snapState c pinnedOp).read ((⟨false, 4096⟩ : Loc).plus (32 * i)) 32)) = some regions ∧
      (snapState c pinnedOp).qp? 5 3 = some { aQp with owner := c }) ∧
    (∀ r ∈ regions, Reached (snapState 1 pinnedOp) r.1 r.2.1 false) ∧
    snapping.opIs opKey Cls.STEP 1 .running = some { snapshotOp with st := .running, work := .snap 0 7 regions false } ∧
    Untraced snapping ∧ sumNat (regions.map fun r => r.2.1) = 64 ∧ Reached snapping ⟨false, 24576⟩ 64 true ∧ snapping.sc.flip = none := by
  decide +kernel
/-- The same snapshot before its dispatch. -/
def snapStaged : State := withOp (snapState 1 snapshotOp) snapshotOp
theorem witness_snapshot_dispatch : snapStaged.op? opKey = some snapshotOp ∧ snapshotOp.st = .staged ∧ snapshotOp.cls = Cls.STEP ∧
    snapshotOp.code = 1 ∧ (bufWith snapshotOp).predsDone snapshotOp = true ∧ snapStaged.rootReady (bufWith snapshotOp) snapshotOp = true ∧
    snapshotOp.tiles = [] ∧ snapStaged.heldStaged snapshotOp = false ∧ snapStaged.outranked opKey snapshotOp = false ∧
    snapshotOp.opnds.flatMap Opnd.indLocs = [] ∧ snapStaged.phase ≠ Phase.IN_DOUBT ∧
    dispatchOk snapshotOp (snapshotOp.opnds.map fun x => x.resolve snapStaged) = true := by decide +kernel
theorem witness_snapshot_regions : regions ≠ [] := by decide
def locked : State := withOp able { commitOp 0 0 with st := .staged }
def anEntry (commits : Bool) : JEntry := ⟨J.COMMIT, 0, 0, [], commits⟩
def journalling (base : State) (en head : Nat) : State :=
  { set base [(Reg.SC_JNL_CTRL.EN, en), (Reg.SC_JNL_HEAD.HEAD, head)] with
    sc := { base.sc with jpend := [anEntry true], jSizeLog2 := 4 } }
def barredJournal : State := let s := journalling up 1 0; { s with sc := { s.sc with jBase := 2 ^ 40 } }
theorem witness_journal : up.stepWindow = true ∧ locked.stepWindow = false ∧ locked.phase ≠ Phase.PIN_WAIT ∧ locked.valid = true ∧
    (∀ s ∈ [journalling up 1 0, journalling up 0 0, journalling up 1 16, barredJournal], s.stopped = false ∧
      (∀ f, s.sc.flip = some f → f.queued = true) ∧ s.sc.jpend = [anEntry true]) ∧
    (journalling up 1 16).jnlFull = true ∧ (journalling up 1 16).on Reg.SC_JNL_CTRL.EN = true ∧
    (journalling up 0 0).on Reg.SC_JNL_CTRL.EN = false ∧ (journalling up 1 0).jnlFull = false ∧
    (journalling up 1 0).windowAdmits (journalling up 1 0).sc.jBase 128 true = true ∧
    (barredJournal).windowAdmits (barredJournal).sc.jBase 128 true = false := by decide +kernel

/-! ## Link ports and membership -/

def flitOf (dst seq : Nat) : List Nat := (⟨Flit.DATA, 0, true, dst, 1, 0, 7, 0, 0, 0, 64⟩ : Hdr).bytes seq 0xFFF [0, 0, 0, 0] (List.replicate 64 3)
def noisy (p fails : Nat) : State := { linked with link := [(p, { PortSt.reset with fails := fails, unacked := [(9, hdrOf (flitOf 1 9), List.replicate 64 3)] })] }
def training : State := set up [(Reg.LINK_PORT.STATE 17, Port.TRAINING)]
theorem witness_ports : up.muted = false ∧ up.stage = Stage.READY ∧ (∀ f ∈ [0, 6, 7], (noisy 6 f).portState 6 = Port.UP ∧
      ((noisy 6 f).port 6).retried = false ∧ ((noisy 6 f).port 6).fails = f) ∧
    flitOk (flitOf 1 0) = true ∧ flitOk (0 :: flitOf 1 0) = false ∧ (hdrOf (flitOf 1 0)).typ = 1 ∧ flitSeq (flitOf 1 0) = ((noisy 6 0).port 6).expect ∧
    (hdrOf (flitOf 1 0)).dst ≠ (noisy 6 0).myIndex ∧ (noisy 6 0).hop 0 (noisy 6 0).myIndex 1 = some 0 ∧ (0 : Nat) ≠ 6 ∧
    second.isRoot = false ∧ second.portState 6 = Port.UP ∧ secondMap.root? = some 0 ∧ secondMap.planesTo 0 ≠ [] ∧
    secondMap.portState 17 ≠ Port.UP ∧ training.portState 17 = Port.TRAINING ∧ training.expectedPeer 17 ≠ 99 := by decide +kernel
def inState (s : State) (m : Nat) : State := set s [(Reg.LINK_STATUS.MSTATE, m)]
/-- Module 0 as root with a joiner. -/
def admitting : State := { inState linked Mst.MEMBER with dom := { linked.dom with joiners := [(4, 0)] } }
theorem witness_members : (∀ m ∈ [0, 1, 2, 3], (inState up m).mstate = m ∧ (inState up m).valid = true ∧ (inState up m).stopped = false) ∧
    (inState up 2).myIndex ∉ [5] ∧ (inState up 1).myIndex ∈ [0, 5] ∧ (inState up 2).followsMap 5 0 = true ∧
    (inState secondMap 3).running Cls.COLLECTIVE = 0 ∧ (∀ x ∈ (inState secondMap 3).link, x.2.unacked = []) ∧
    (inState secondMap 3).root? = some 0 ∧ (inState secondMap 3).planesTo 0 ≠ [] ∧
    (∀ m ∈ [2, 3], (inState secondMap m).active = true ∧ (inState secondMap m).root? = some 0 ∧ 0 ≠ (inState secondMap m).myIndex ∧
      (inState secondMap m).planesTo 0 ≠ []) ∧
    ((inState secondMap 2).dom.members.filter (· != 0)).min? = some (inState secondMap 2).myIndex ∧
    admitting.active = true ∧ admitting.isRoot = true ∧ admitting.dom.votes = [] ∧ admitting.dom.joiners ≠ [] ∧
    1 ∈ admitting.dom.members ∧ mapGet admitting.dom.ports 0 1 ≠ 5 ∧ 1 ≠ admitting.myIndex ∧
    mapGet ({ admitting with dom := { admitting.dom with ports := [(0, admitting.myPorts)] } } : State).dom.ports 0 0 = admitting.myPorts := by
  decide +kernel

/-- A port with nothing waiting and credits left; a hop that works and one that a gated island ends. -/
def darkHop : State := set up [(Reg.ISL_STATE.STATE 0, Isl.GATED)]
def aged (s : State) (n : Nat) : State := { s with now := n }
theorem witness_port_times : up.hopWorks 0 0 = true ∧ darkHop.hopWorks 0 0 = false ∧ (noisy 6 0).portState 0 = Port.UP ∧
    ((noisy 6 0).port 0).waiting = [] ∧ (∀ v ∈ [0, 1, 2, 3], 0 < nth ((noisy 6 0).port 0).credits 0 v) ∧
    ((noisy 6 0).port 0).unacked.length < replayDepth ∧ (∀ e ∈ ((noisy 6 0).port 6).unacked, 2048 ≤ ((9 + 4095) % 4096 + 4096 - e.1) % 4096) ∧
    ((noisy 6 0).port 6).unacked ≠ [] ∧ (aged (noisy 6 0) 9999).now < ((aged (noisy 6 0) 9999).port 6).lastRx + 10000 ∧
    ((aged (noisy 6 0) 10000).port 6).lastRx + 10000 ≤ (aged (noisy 6 0) 10000).now ∧ (aged (noisy 6 0) 10000).portState 6 = Port.UP := by
  decide +kernel
/-- Module 1 hears no map; module 0, as root, hears nothing of module 1; module 1 is no longer the lowest that is left. -/
def orphan (m n : Nat) : State := aged (inState secondMap m) n
def third : State :=
  { orphan 2 300000 with dom := { (orphan 2 300000).dom with members := [0, 1, 2], ports := [(0, 0x3FFFF), (1, 0x3FFFF), (2, 0x3FFFF)] } }
def third' : State := set third [(Reg.LINK_DOMAIN.DX, 2), (Reg.LINK_DOMAIN.X, 2)]
def deaf (n : Nat) : State := aged { inState linked Mst.MEMBER with dom := { linked.dom with heard := [(1, 0)] } } n
theorem witness_member_times : (aged (inState up 1) 999999).now < (aged (inState up 1) 999999).dom.mapAt + 1000000 ∧
    (aged (inState up 1) 1000000).dom.mapAt + 1000000 ≤ (aged (inState up 1) 1000000).now ∧
    (∀ n ∈ [299999, 300000], (orphan 2 n).active = true ∧ (orphan 2 n).root? = some 0 ∧ (orphan 2 n).myIndex = 1 ∧
      ((orphan 2 n).dom.members.filter (· != 0)).min? = some 1 ∧ (orphan 2 n).dom.joiners = [] ∧ (orphan 2 n).mstate = Mst.MEMBER) ∧
    (orphan 2 299999).now < (orphan 2 299999).dom.mapAt + 300000 ∧ (orphan 2 300000).dom.mapAt + 300000 ≤ (orphan 2 300000).now ∧
    (orphan 3 300000).mstate = Mst.LEAVING ∧ (orphan 3 300000).active = true ∧
    third'.active = true ∧ third'.root? = some 0 ∧ third'.myIndex = 2 ∧ (third'.dom.members.filter (· != 0)).min? ≠ some third'.myIndex ∧
    third'.dom.mapAt + 300000 ≤ third'.now ∧
    (∀ n ∈ [299999, 300000], (deaf n).active = true ∧ (deaf n).isRoot = true ∧ 1 ∈ (deaf n).dom.members ∧ 1 ≠ (deaf n).myIndex ∧
      (deaf n).joinersNow = []) ∧
    (deaf 299999).now < mapGet (deaf 299999).dom.heard 0 1 + 300000 ∧ mapGet (deaf 300000).dom.heard 0 1 + 300000 ≤ (deaf 300000).now ∧
    admitting.joinersNow = [(4, 0)] ∧ (∀ x ∈ (inState secondMap 3).link, x.2.waiting = []) ∧ (inState secondMap 3).mstate = Mst.LEAVING := by
  decide +kernel

/-! ## Ethernet -/

def online : State := regioned (set up [(Reg.ETH_PORT.STATE 5, Port.UP)])
/-- Handle 2 names read-only memory, handle 4 host memory. -/
def served : State :=
  { online with fe := { online.fe with relocs := [⟨1, 1, false, 0, 2 ^ 30, 3⟩, ⟨1, 2, false, 0, 4096, 1⟩, ⟨1, 4, true, 0, 4096, 3⟩] } }
def flapping (n : Nat) : State := { served with eth := [(5, { PortSt.reset with losses := List.replicate n 0 })] }
theorem witness_rdma : served.qpServing 5 3 = some aQp ∧ served.rkeyLoc 1 1 64 8 false true = some ⟨false, 64⟩ ∧
    served.rkeyLoc 1 4 64 8 false true = some ⟨true, 64⟩ ∧ Reached served ⟨false, 64⟩ 8 true ∧ Reached served ⟨true, 64⟩ 8 true ∧
    served.rkeyLoc 1 2 64 8 false true = none ∧ served.rkeyLoc 1 2 64 8 true false = some ⟨false, 64⟩ ∧
    Reached served ⟨false, 64⟩ 8 false ∧ served.rkeyLoc 1 2 4089 8 true false = none := by decide +kernel
theorem witness_ethernet : (set up [(Reg.ETH_PORT.STATE 5, Port.TRAINING)]).ethState 5 = Port.TRAINING ∧
    ∀ n ∈ [0, 1, 2], (flapping n).ethState 5 = Port.UP ∧ (flapping n).qp? 5 3 = some aQp ∧
      decide (2 ≤ (((flapping n).ethPort 5).losses.filter fun x => decide ((flapping n).now ≤ x + 1000000000)).length) = (n == 2) := by
  decide +kernel

/-! ## WellFormed: an ill-formed command for each check -/

def wide (v : Nat) : Wr := ⟨.host, true, false, v, 0⟩
def island21 : FaultIn := ⟨Ev.MEM_UE, 6, 21, []⟩
theorem test_wf_writes : ∀ c ∈ [Instr.regWrite 1 0 8 (wide 1), .regWrite 0 (2 ^ 26) 8 (wide 1), .regWrite 2 (2 ^ 24) 8 (wide 1), .regWrite 0 0 8 (wide (2 ^ 64)),
    .twGo ⟨.host, false, true, 2 ^ 32, 0⟩, .detWrite ⟨.host, true, true, 1, 0⟩, .capWrite ⟨.host, true, false, 1, 2 ^ 64⟩,
    .subqEnable (wide (2 ^ 64)), .sbNotifyArm 4096 (wide 0), .refusedRegisterRead 4 0 8, .refusedRegisterRead 0 (2 ^ 26) 8,
    .stepStateWrite 0 (wide 0), .linkJoin (wide (2 ^ 64)), .gateRequest (wide (2 ^ 64)), .mbDoorbellIn (wide (2 ^ 64))], c.wf = false := by
  decide +kernel
theorem test_wf_memory : ∀ c ∈ [Instr.bar4Read (2 ^ 36) 1 [], .bar4Read 0 4097 [], .bar4Read 0 8 [⟨2 ^ 48, [0], 0, none⟩], .bar4Write 0 [256] [],
    .bar4Write (2 ^ 36) [1] [], .bar4Write 0 [] [⟨0, [1], 2 ^ 32, none⟩], .twAccessDone [⟨8, .ue, 0⟩], .twAccessDone [⟨0, .ue, 8⟩],
    .hbmPatrolScrub ⟨2 ^ 48, [0, 1], 0, none⟩, .hbmRefresh 12 0, .hbmRefresh 0 32, .tmaScrub 0 512 .none, .sramScrub 0 16384 .none,
    .tmaScrub 131072 0 .none], c.wf = false := by decide +kernel
theorem test_wf_ops : ∀ c ∈ [Instr.opStage ⟨4096, 0, 0⟩, .opDispatch ⟨0, 2 ^ 64, 0⟩ [], .nop ⟨0, 0, 65536⟩, .tmaIcursorWrite 131072 0 [],
    .tmaIcursorWrite 0 1024 [], .tmaIcursorWrite 0 0 [⟨0, 512, 0, 0, 0, 0, false⟩], .quietTimeout 4096, .contextFault 0 island21, .contextFault 0 ⟨65536, 6, 0, []⟩, .contextFault 0 ⟨1, 8, 0, []⟩,
    .whistle ⟨1, 6, 0, [256]⟩, .whistle ⟨1, 6, 0, List.replicate 33 0⟩, .policyRecordScore 16 0 [] [], .semaphoreTake 0 0 1024 0,
    .semaphoreTake 0 0 0 2, .burstIssue opKey [] (some 12), .huddleRelease opKey 0 0, .scoreRecord opKey 16 [] [] [],
    .stragglerDeadline opKey 4096 [], .matmul opKey [⟨2 ^ 48, [0, 1], 0, none⟩], .imageLoadDone 131072 true [],
    .imageLoadDone 0 true [⟨512, .ue, 0⟩], .destroyContext opKey (some (13, 0, 0)), .residueReplay 0 (.q4 [] [] [])], c.wf = false := by decide +kernel
theorem test_wf_images : ∀ c ∈ [Instr.tileConfig opKey { plainImage with segs := [] } [], .tileConfig opKey { plainImage with kind := 256 } [],
    .loadPolicy opKey { plainImage with gen := 256 } [], .imageCheck 0 { plainImage with crc := 2 ^ 32 }, .imageCheck 32 plainImage,
    .imageCheck 0 { plainImage with errOffset := 2 ^ 32 }, .bufferCheck [(0, { plainImage with segs := [{ plainSeg with sram := [256] }] })] false [],
    .fwUpdate 0 { FwHead.factory with svn := 256 }, .fwUpdate 0 { FwHead.factory with keyIndex := 256 }, .fwUpdate 32 FwHead.factory],
    c.wf = false := by decide +kernel
theorem test_wf_network : ∀ c ∈ [Instr.vote ⟨4096, 0, 0, true, 0⟩, .vote ⟨0, 0, 2, true, 0⟩, .decision .abort 4097 0,
    .packageFlitReceive 20 0 .none 0, .packageFlitReceive 0 5 .none 0, .packageFlitReceive 0 0 .none 5, .flitReceive 18 (List.replicate 256 0) false 0,
    .flitReceive 0 [] false 0, .flitReceive 0 (List.replicate 256 256) false 0, .retry 0 4096 0, .retry 0 0 65536, .linkSilence 18, .portTrainingDone 0 (.up 4096),
    .downNotice 19 0, .heartbeat 0 (2 ^ 18), .map 4096 [] [] 0, .map 0 [4096] [] 0, .map 0 [] [(0, 2 ^ 18)] 0, .map 0 [] [] (2 ^ 32),
    .join 4096 0, .join 0 (2 ^ 18), .ready (2 ^ 32) 0 true, .data 0 4096 0 0 true [] [], .data 0 0 0 0 true (List.replicate 225 0) [], .nack 0 0 0, .nack 5 0 0,
    .rdmaWrite 6 1 0 0 [] [], .rdmaWrite 0 0 0 0 [] [], .rdmaRead 0 16386 0 0 0 [], .send 0 1 [256], .ethLinkLost 6,
    .priorityFlowControlFrame 0 256], c.wf = false := by decide +kernel
theorem test_wf_platform : ∀ c ∈ [Instr.sensorSample [⟨20, 0, [1]⟩] [] [], .sensorSample [⟨0, 1024, [1]⟩] [] [], .sensorSample [⟨0, 0, []⟩] [] [],
    .sensorSample [⟨0, 0, [128]⟩] [] [], .sensorSample [] [(20, 0)] [], .sensorSample [] [] [(12, 0)], .marginTrim 640 true,
    .laneMarginCheck true 6 0 true, .laneMarginCheck false 18 0 true, .laneMarginCheck false 0 8 true, .islandDrainDone 20,
    .coalesceWindowEnd 65536 0 false 0, .getVersion 32, .pwrgdRise 8 0, .pwrgdRise 0 2, .fitnessScanDone ⟨[131072], [], [], [], [], []⟩ 0,
    .fitnessScanDone ⟨[], [16], [], [], [], []⟩ 0, .fitnessScanDone ⟨[], [], [12], [], [], []⟩ 0,
    .fitnessScanDone ⟨[], [], [], [3], [], []⟩ 0,
    .fitnessScanDone ⟨[], [], [], [], [3], []⟩ 0, .fitnessScanDone ⟨[], [], [], [], [], [3]⟩ 0, .pldmRequest 29],
    c.wf = false := by decide +kernel
theorem test_wf_accepts : ∀ c ∈ [Instr.bar4Read 0 4096 [], .nop opKey, .tileConfig opKey plainImage [], .fwUpdate 31 FwHead.factory, .retry 17 4095 65535,
    .pwrgdRise 7 1, .pldmRequest 28], c.wf = true := by decide +kernel

/-! ## Worked examples of the spec -/

/-- A decimal in hundredths, to the nearest FP32 value. -/
def dec (n : Int) : Machine.Num := f32Val (ratToF32 ⟨n, 0⟩ ⟨100, 0⟩)
/-- The activation block of 04_q4_formats.md, A block by hand. -/
def handBlock : List Machine.Num := [30, -55, 110, 0, 80, -260, 12, 45, 140, 50, -25, 0, 75, -100, 30, 0, 0, 0, 0, 0, 0, 0, 0, 0,
  200, 0, 0, -90, 0, 0, 20, 0].map dec
def handEnc : QEnc := q4nEncode handBlock [] fun _ => .rne
/-- Twice the weight values of that example. -/
def handWeight : QBlk := ⟨0x7B, [2, 1, -2, 4, 0, 3, 0, -1, 1, -2, 0, 6, 2, 1, 8, 4, 2, 2, 2, 2, 2, 2, 2, 2, -4, 2, 2, 3, 0, 0, 12, 0], [4, 4, 4, 5]⟩
theorem test_block_bytes : handEnc.bytes = [0xB1, 0x05, 0xF4, 0x21, 0x47, 0x0A, 0xE5, 0x02, 0, 0, 0, 0, 0x07, 0xC0, 0x00, 0x01, 0x7D, 0x83] := by
  decide +kernel
theorem test_block_product : (List.range 4).map (subD handEnc.blk.t handWeight.t) = [-51, 24, 0, -48] ∧
    blockP handEnc.blk handWeight = -2484 ∧ subC handEnc.blk.t handWeight.t 0 = 5 ∧
    f32Acc (f32Of (dec 25)) (pairValue handEnc.blk handWeight) = 0xBEB68000 := by decide +kernel
theorem test_stochastic_rounding : e2m1Code (.sr 0x3A10) (dec 30).dy ⟨7, -4⟩ = 2 ∧ e2m1Code (.sr 0x9C40) (dec 30).dy ⟨7, -4⟩ = 1 := by
  decide +kernel
/-- The block with two spikes of 05_two_way_converter.md. -/
def spikes : List Machine.Num := (List.range 32).map fun k =>
  if k = 3 then dec 4000 else if k = 17 then dec (-2400) else if k = 9 then dec 150 else if k = 0 then dec 50 else if k = 10 then dec (-20)
  else if k = 1 then dec 100 else dec 0
def spikeSide : Side := sideOf spikes (outlierIdx 3 spikes) fun _ => .rne
def spikeEnc (outl : Bool) : QEnc := q4nEncode spikes ((List.range 32).map fun k => outl && (k == 3 || k == 17)) fun _ => .rne
theorem test_outliers : spikeSide.toBits = 0x0A23C1C04220 ∧ (spikeEnc true).exp = 0x7D ∧ (spikeEnc false).exp = 0x81 ∧
    ([0, 3, 9, 10, 17].map fun k => nth (spikeEnc true).codes 0 k) = [4, 0, 7, 0xA, 0] ∧
    ([0, 3, 9, 10, 17].map fun k => nth (spikeEnc false).codes 0 k) = [0, 7, 1, 0, 0xF] := by decide +kernel
/-- The address of 10_memory.md on a full module and with stack 5 fenced. -/
def stackFenced : State := { up with fit := some { up.lastMap with fencedStack := some 5 } }
theorem test_interleave : up.stackOf 0x1234567900 = 1 ∧ up.channelOf 0x1234567900 = 25 ∧ stackFenced.stackOf 0x1234567900 = 2 := by
  decide +kernel
/-- Tile 0x0B45 of 01_architecture.md; the DROP sum of 13_training_step.md: 7.25 of seven of eight ranks. -/
theorem test_tile_and_straggler : up.tileIsland 0x0B45 = 9 ∧ scaleResult (f32Of (dec 725)) 8 7 = 0x41049249 := by decide +kernel
/-- The override table of 07_filtas_ternary_arrays.md: a W2 bank with entry 3 a hole. -/
def override : Tile :=
  { (Tile.reset.wr TReg.TMA_CFG.WIDTH 1) with tma :=
      [(0, ⟨0x05000031, 0xFF00FFFF, 0x10, 0, true, 24⟩), (2, ⟨0x31, 0xFFFF, 0x11, 0, true, 16⟩),
       (4, ⟨0x04120000, 0xFFFF0000, 0x12, 0, true, 16⟩), (8, ⟨0, 0, 1, 0, true, 0⟩)] }
def inserted : Tile := (override.writeSlot 6 0x44 0xFFFF 0x13).writeSlot 7 0 0 0
theorem test_override_search : override.span = 2 ∧ (override.search 0x04120031).word = 0x101E010011 ∧
    ([0, 1, 2, 3].map fun k => ((override.searchRank 0x04120031 k).hit, (override.searchRank 0x04120031 k).addr)) =
      [(true, 1), (true, 2), (true, 4), (false, 0)] ∧ (override.searchRank 0x04120031 3).total = 3 := by decide +kernel
theorem test_live_insert : inserted.search 0x04120044 = ⟨true, 0x12, 2, false, 2, 16⟩ ∧
    (inserted.validate 6).search 0x04120044 = ⟨true, 0x12, 2, true, 3, 16⟩ ∧ (inserted.validate 6).search 0x05550044 = ⟨true, 0x13, 3, false, 2, 16⟩ := by
  decide +kernel
/-- Automaton 0x075 of 09_filtas_patterns.md (`pin:` and four digits) on tile 0, in the layout of `patOp`. -/
def sieve : State :=
  let e := fun (f0 m0 f1 m1 leaf len : Nat) => (⟨f0 + f1 * 2 ^ 16 + 0x75 * 2 ^ 32, m0 + m1 * 2 ^ 16 + 0x3FF * 2 ^ 32, leaf, 0, true, len⟩ : TmaSlot)
  let cls := fun (c : Nat) => if c = 0x70 then 1 else if c = 0x69 then 2 else if c = 0x6E then 3 else if c = 0x3A then 4
    else if 0x30 ≤ c ∧ c ≤ 0x39 then 5 else 0
  let s := patState patOp 0
  { s.modTile 0 fun t => { t with
      tma := [(0, e 1 0xFFFF 2 63 2 32), (1, e 2 0xFFFF 3 63 3 32), (2, e 3 0xFFFF 4 63 4 32), (3, e 4 0xFFFF 5 63 5 32),
        (4, e 5 0xFFFF 5 63 6 32), (5, e 6 0xFFFF 5 63 7 32), (6, e 7 0xFFFF 5 63 0xF800 32), (7, e 0 0 1 63 1 16), (8, e 0 0 0 0 0 10)]
      sram := Memory.wrBytes [] 0 ((List.range 256).map cls ++ leBytes 8 0x750803) } with
    configs := [(6, { plainImage with pat := some ⟨[⟨0x75, [0], 0xF800, 0, 256⟩], 0, copySize, none⟩ })]
    hbm := Memory.wrBytes s.hbm 8192 [0x75, 0] }
/-- The record "ppin:20234x" and its lane, by what a lane holds before offset 8. -/
def sieveAt (offset state : Nat) (reports : List Report) (marks : List (Nat × Nat)) : State :=
  let l : Lane := { lane .scan 0x0A41 11 offset with states := [state], reports := reports, marks := marks, total := reports.length }
  let s := { sieve with hbm := Memory.wrBytes sieve.hbm (4096 + 64 + 64 * (0x0A41 % 8)) (leBytes 8 11 ++ [112, 112, 105, 110, 58, 50, 48, 50, 51, 52, 120]) }
  withOp s { patOp with st := .running, work := .pattern (busyLanes l) }
def firedLane (s : State) : Option Lane := (s.patWork opKey).bind fun w => w.2.lanes[1]?
theorem test_pattern_fires : ∃ t, exec (.patternByte opKey 1 []) (sieveAt 8 7 [] []) = .next t ∧
    (firedLane t).map (fun l => (l.states, l.marks, l.reports.map fun r => r.bytes 0x0A41)) =
      some ([0xF800], [(1, 8)], [leBytes 8 0x0075000000000A41 ++ leBytes 4 8 ++ leBytes 2 0x75 ++ leBytes 2 0x0108]) :=
  ⟨_, rfl, by decide +kernel⟩

end Sys2Proof.Tests
end

section
/-! SUPPORT. Register accesses (R29): which ones a register takes, and what an access that it refuses does. -/

namespace Sys2Proof.Machine

/-! ## The layout of the register rows -/

/-- A row of 64-bit registers: each register of it stands at a multiple of 8 bytes, and no field of the first passes bit 63. -/
abbrev RegRow.Aligned (r : RegRow) : Prop := r.base % 8 = 0 ∧ r.stride % 8 = 0 ∧ ∀ f ∈ r.flds 0, f.lo + f.w ≤ 64

theorem regRows_aligned : ∀ r ∈ regRows, r.Aligned := by
  simp only [regRows, List.forall_mem_append]
  decide

theorem tileRegRows_aligned : ∀ r ∈ tileRegRows, r.Aligned := by decide

/-! ## Accesses of any width and alignment -/

theorem accessOk_iff (off size : Nat) : accessOk off size = true ↔ (size = 4 ∨ size = 8) ∧ off % size = 0 := by
  simp [accessOk]

theorem State.inc_saturating (s : State) (f : Fld) (n : Nat) (h : f.sat = true) :
    s.inc f n = s.wr f (min (s.rd f + n) (2 ^ f.w - 1)) := by
  rw [State.inc_eq, Fld.counted, if_pos h]

/-- A refused access counts once in HI_ACCESS_ERR, which stays at its highest value (R32, R458). -/
theorem State.accessErr_eq (s : State) :
    s.accessErr = s.wr Reg.HI_ACCESS_ERR.COUNT (min (s.rd Reg.HI_ACCESS_ERR.COUNT + 1) (2 ^ 32 - 1)) :=
  s.inc_saturating Reg.HI_ACCESS_ERR.COUNT 1 rfl

theorem exec_refusedRegisterRead (bar off size : Nat) (s : State) :
    exec (.refusedRegisterRead bar off size) s = .next (opRegisterRead bar off size s) := rfl

theorem exec_regWrite (bar off size : Nat) (w : Wr) (s : State) :
    exec (.regWrite bar off size w) s = .next (opRegWrite bar off size w s) := rfl

section
variable {off size : Nat} (bar : Nat) (s : State)

theorem opRegisterRead_of_accessOk (h : accessOk off size = true) :
    opRegisterRead bar off size s = s.send (.completion
      (leBytes size (s.hostWord ((if bar = 2 then bar2 else 0) + off / 8 * 8) / 2 ^ (8 * (off % 8)))) false) := by
  rw [opRegisterRead, if_pos h]

theorem opRegisterRead_of_not_accessOk (h : ¬ accessOk off size = true) :
    opRegisterRead bar off size s = s.accessErr.send (.completion (List.replicate size 0) false) := by
  rw [opRegisterRead, if_neg h]

theorem opRegWrite_of_accessOk (w : Wr) (h : accessOk off size = true) :
    opRegWrite bar off size w s = s.mapWrite ((if bar = 2 then bar2 else 0) + off / 8 * 8)
      { w with wide := size = 8, hi := off % 8 = 4 } := by
  rw [opRegWrite, if_pos h]

theorem opRegWrite_of_not_accessOk (w : Wr) (h : ¬ accessOk off size = true) :
    opRegWrite bar off size w s = s.accessErr := by
  rw [opRegWrite, if_neg h]

end

/-- Settles O8: the rows by their tables, an access by whether `accessOk` takes its width and alignment. -/
theorem registerAccessWidths : Obligations.RegisterAccessWidths := by
  refine ⟨fun r hr => ?_, fun bar off size w s => ⟨fun h => ?_, fun h => ?_⟩⟩
  · exact (List.mem_append.1 hr).elim (regRows_aligned r) (tileRegRows_aligned r)
  · have hok := (accessOk_iff off size).2 h
    rw [exec_refusedRegisterRead, exec_regWrite, opRegisterRead_of_accessOk bar s hok, opRegWrite_of_accessOk bar s w hok]
    exact ⟨rfl, rfl⟩
  · have hbad := mt (accessOk_iff off size).1 h
    rw [exec_refusedRegisterRead, exec_regWrite, opRegisterRead_of_not_accessOk bar s hbad,
      opRegWrite_of_not_accessOk bar s w hbad, ← State.accessErr_eq]
    exact ⟨rfl, rfl⟩

end Sys2Proof.Machine
end

section
/-! SUPPORT. Which register fields an operation can change: field writes, events and lock violations (R32 to R38, R512). -/

namespace Sys2Proof.Machine

/-! ## Register frames -/

/-- No register field reads differently but those of `fs`. -/
def RegsOnly (fs : List Fld) (s t : State) : Prop := ∀ g : Fld, (∀ f ∈ fs, g.key ≠ f.key) → t.rd g = s.rd g

section
variable {fs : List Fld} {s t u : State}

theorem RegsOnly.of_regs_eq (h : t.regs = s.regs) : RegsOnly fs s t := fun g _ => by rw [State.rd, h, State.rd]

theorem RegsOnly.refl : RegsOnly fs s s := fun _ _ => rfl

theorem RegsOnly.trans (h : RegsOnly fs s t) (k : RegsOnly fs t u) : RegsOnly fs s u :=
  fun g hg => (k g hg).trans (h g hg)

theorem RegsOnly.mono {gs : List Fld} (h : RegsOnly fs s t) (hsub : fs ⊆ gs) : RegsOnly gs s t :=
  fun g hg => h g fun f hf => hg f (hsub hf)

theorem RegsOnly.wr {f : Fld} (h : f ∈ fs) (v : Nat) : RegsOnly fs s (s.wr f v) :=
  fun g hg => s.rd_wr_of_ne f g v (hg f h)

theorem RegsOnly.inc {f : Fld} (h : f ∈ fs) (n : Nat) : RegsOnly fs s (s.inc f n) := RegsOnly.wr h _

theorem RegsOnly.ite {p : Prop} [Decidable p] (h : RegsOnly fs s t) (k : RegsOnly fs s u) :
    RegsOnly fs s (if p then t else u) := by split <;> assumption

end

/-- A write reaches one field alone, unless it may collide with a hardware update (R35). -/
theorem State.fieldWrite_regsOnly (s : State) (w : Wr) {f : Fld} (h : f.ty ≠ .hwu) : RegsOnly [f] s (s.fieldWrite w f) := by
  have hf : f ∈ [f] := List.mem_singleton_self f
  unfold State.fieldWrite
  refine .ite .refl ?_
  dsimp only
  split
  case h_1 | h_2 => exact .refl
  case h_3 | h_4 => exact .ite .refl (.wr hf _)
  case h_5 | h_6 | h_8 => exact .wr hf _
  case h_7 => exact .ite .refl ((RegsOnly.wr hf _).trans (.of_regs_eq rfl))
  case h_9 hty => exact absurd hty h

/-! ## Events -/

/-- The register fields that an event of a TYPE can change: the class counters, its status bits, and the trace ring's. -/
def eventFlds (typ : Nat) : List Fld :=
  [Reg.FLT_CLASS_C.COUNT, Reg.FLT_CLASS_P.COUNT, Reg.FLT_CLASS_Q.COUNT, Reg.FLT_CLASS_D.COUNT, Reg.FLT_ALARM.COUNT,
    Reg.FLT_TRC_OVERWRITTEN.COUNT, Reg.FLT_TRC_HEAD.HEAD] ++ seenBits typ

theorem classCounter_mem_eventFlds (cls typ : Nat) : classCounter cls ∈ eventFlds typ := by
  have hcounter : classCounter cls ∈ [Reg.FLT_CLASS_C.COUNT, Reg.FLT_CLASS_P.COUNT, Reg.FLT_CLASS_Q.COUNT,
      Reg.FLT_CLASS_D.COUNT, Reg.FLT_ALARM.COUNT, Reg.FLT_TRC_OVERWRITTEN.COUNT, Reg.FLT_TRC_HEAD.HEAD] := by
    match cls with
    | 0 | 1 | 2 | 3 => decide
    | n + 4 =>
      rw [show classCounter (n + 4) = Reg.FLT_ALARM.COUNT from rfl]
      decide
  exact List.mem_append_left _ hcounter

theorem seenBits_subset_eventFlds (typ : Nat) : seenBits typ ⊆ eventFlds typ := List.subset_append_right _ _

theorem State.setBits_regsOnly {fs : List Fld} (s : State) (bits : List Fld) (h : bits ⊆ fs) :
    RegsOnly fs s (s.setBits bits) := by
  induction bits generalizing s with
  | nil => exact .refl
  | cons f bits ih =>
    obtain ⟨hf, hbits⟩ := List.cons_subset.1 h
    exact (RegsOnly.wr hf 1).trans (ih _ hbits)

theorem State.traceEvent_regsOnly (s : State) (e : Event) (typ : Nat) : RegsOnly (eventFlds typ) s (s.traceEvent e) := by
  unfold State.traceEvent
  extract_lets _ s1 _ _ s2 _ s3
  have h1 : RegsOnly (eventFlds typ) s s1 := .of_regs_eq rfl
  have h2 : RegsOnly (eventFlds typ) s1 s2 := .ite (.inc (by simp [eventFlds]) _) .refl
  have h3 : RegsOnly (eventFlds typ) s2 s3 := .of_regs_eq rfl
  exact .ite (((h1.trans h2).trans h3).trans (.wr (by simp [eventFlds]) _)) h1

@[simp] theorem State.post_regs (s : State) (e : Event) : (s.post e).regs = s.regs := by
  unfold State.post
  split <;> rfl

@[simp] theorem State.coalesce_regs (s : State) (e : Event) : (s.coalesce e).regs = s.regs := by
  unfold State.coalesce
  split
  · rfl
  · split
    case h_1 => dsimp only; split <;> simp
    case h_2 => extract_lets p upd; split <;> simp [upd]

@[simp] theorem State.queueAlarm_regs (s : State) (e : Event) : (s.queueAlarm e).regs = s.regs := by
  unfold State.queueAlarm
  simp only [apply_ite State.regs, ite_self]

/-- The registers that raising an event can change. -/
theorem State.raise_regsOnly (s : State) (typ cls subsys src : Nat) (ctx : Option Nat) (payload : List (Nat × Nat)) :
    RegsOnly (eventFlds typ) s (s.raise typ cls subsys src ctx payload) := by
  unfold State.raise
  extract_lets cls e s1 _ s2 s3 s4 _ s5 r _ s6 r2 s7
  have h1 : RegsOnly (eventFlds typ) s s1 := .inc (classCounter_mem_eventFlds _ _) _
  have h2 : RegsOnly (eventFlds typ) s s2 := h1.trans (.of_regs_eq rfl)
  have h3 : RegsOnly (eventFlds typ) s s3 := h2.trans (s2.setBits_regsOnly _ (seenBits_subset_eventFlds typ))
  have h4 : RegsOnly (eventFlds typ) s s4 := .ite (h3.trans (s3.traceEvent_regsOnly _ typ)) h3
  have h5 : RegsOnly (eventFlds typ) s s5 := .ite (h4.trans (.of_regs_eq rfl)) h4
  have halarm := h5.trans (.of_regs_eq (s5.queueAlarm_regs e))
  have hcoalesce := h5.trans (.of_regs_eq (s5.coalesce_regs e))
  refine .ite halarm (.ite ?lock (.ite ?deny hcoalesce))
  all_goals
    split
    · exact h5.trans (.of_regs_eq (State.post_regs _ _))
    · exact h5.trans (.of_regs_eq rfl)

theorem State.note_regsOnly (s : State) (typ subsys src : Nat) (ctx : Option Nat) (payload : List (Nat × Nat)) :
    RegsOnly (eventFlds typ) s (s.note typ subsys src ctx payload) := s.raise_regsOnly typ 0 subsys src ctx payload

/-! ## Lock violations (R37) -/

/-- The register fields that a lock violation can change. -/
def lockFlds : List Fld :=
  [Reg.LOCK_STATUS.LOCK_VIOLATION, Reg.LOCK_STATUS.LAST_SRC, Reg.LOCK_STATUS.VIOL_COUNT, Reg.LOCK_LAST_ADDR.ADDR] ++
    eventFlds Ev.LOCK_VIOLATION

/-- LOCK_STATUS and LOCK_LAST_ADDR as a lock violation leaves them, before its event. -/
def State.lockRecord (s : State) (src off : Nat) : State :=
  (((s.wr Reg.LOCK_STATUS.LOCK_VIOLATION 1).wr Reg.LOCK_STATUS.LAST_SRC src).inc Reg.LOCK_STATUS.VIOL_COUNT 1).wr
    Reg.LOCK_LAST_ADDR.ADDR off

section
variable (s : State) (src off dropped : Nat)

theorem State.lockViolation_eq : s.lockViolation src off dropped =
    (s.lockRecord src off).note Ev.LOCK_VIOLATION 14 refIsland none [(4, off), (1, src), (8, dropped)] := rfl

theorem State.lockRecord_regsOnly : RegsOnly lockFlds s (s.lockRecord src off) :=
  (((RegsOnly.wr (by simp [lockFlds]) _).trans (.wr (by simp [lockFlds]) _)).trans (.inc (by simp [lockFlds]) _)).trans
    (.wr (by simp [lockFlds]) _)

theorem State.lockViolation_regsOnly : RegsOnly lockFlds s (s.lockViolation src off dropped) := by
  have hev : eventFlds Ev.LOCK_VIOLATION ⊆ lockFlds := List.subset_append_right _ _
  exact (s.lockRecord_regsOnly src off).trans (.mono (State.note_regsOnly _ _ _ _ _ _) hev)

/-- The event of a lock violation leaves what the violation records. -/
theorem State.rd_lockViolation_of_ne (g : Fld) (h : ∀ f ∈ eventFlds Ev.LOCK_VIOLATION, g.key ≠ f.key) :
    (s.lockViolation src off dropped).rd g = (s.lockRecord src off).rd g := by
  rw [State.lockViolation_eq]
  exact State.note_regsOnly _ _ _ _ _ _ g h

theorem State.lockViolation_rd_violation : (s.lockViolation src off dropped).rd Reg.LOCK_STATUS.LOCK_VIOLATION = 1 := by
  rw [s.rd_lockViolation_of_ne src off dropped _ (by decide), State.lockRecord, State.rd_wr_of_ne _ _ _ _ (by decide), State.inc_eq,
    State.rd_wr_of_ne _ _ _ _ (by decide), State.rd_wr_of_ne _ _ _ _ (by decide), State.rd_wr_self]
  rfl

theorem State.lockViolation_rd_addr :
    (s.lockViolation src off dropped).rd Reg.LOCK_LAST_ADDR.ADDR = off % 2 ^ Reg.LOCK_LAST_ADDR.ADDR.w := by
  rw [s.rd_lockViolation_of_ne src off dropped _ (by decide), State.lockRecord, State.rd_wr_self]

theorem State.lockViolation_rd_count : (s.lockViolation src off dropped).rd Reg.LOCK_STATUS.VIOL_COUNT =
    min (s.rd Reg.LOCK_STATUS.VIOL_COUNT + 1) (2 ^ 32 - 1) := by
  have hlt : min (s.rd Reg.LOCK_STATUS.VIOL_COUNT + 1) (2 ^ 32 - 1) < 2 ^ 32 := by omega
  rw [s.rd_lockViolation_of_ne src off dropped _ (by decide), State.lockRecord, State.rd_wr_of_ne _ _ _ _ (by decide),
    State.inc_saturating _ _ _ rfl, State.rd_wr_self, State.rd_wr_of_ne _ _ _ _ (by decide), State.rd_wr_of_ne _ _ _ _ (by decide)]
  exact Nat.mod_eq_of_lt hlt

end

/-! ## Host writes of 8 bytes -/

theorem bitsOf_mod_two_pow (v lo w n : Nat) (h : lo + w ≤ n) : bitsOf (v % 2 ^ n) lo w = bitsOf v lo w := by
  refine Nat.eq_of_testBit_eq fun i => ?_
  simp only [bitsOf, Nat.testBit_mod_two_pow, Nat.testBit_shiftRight]
  by_cases hi : i < w
  · simp [hi, show lo + i < n by omega]
  · simp [hi]

theorem hostWrite_field (v : Nat) (f : Fld) (h : f.lo + f.w ≤ 64) : (hostWrite v).field f = bitsOf v f.lo f.w :=
  bitsOf_mod_two_pow v f.lo f.w 64 h

theorem hostWrite_covers (v : Nat) (f : Fld) : (hostWrite v).covers f = true := rfl

/-- Once the fitness map is valid every block answers (R500, R558). -/
theorem State.unreachable_of_valid (s : State) (src : Src) (off : Nat) (h : s.valid = true) : s.unreachable src off = false := by
  simp [State.unreachable, h]

end Sys2Proof.Machine
end

section
/-! SUPPORT. A host write of REF_CLAMP (R37, R484). -/

namespace Sys2Proof.Machine

/-! ## The clamps' values -/

section
variable {old v : Nat}

theorem clampPower_eq : clampPower old v =
    if old < v ∨ 3200 < v then (old, true, false) else if v < 1150 then (1150, false, true) else (v, false, false) := by
  simp [clampPower]

theorem clampTemp_eq : clampTemp old v = if old < v ∨ 105 < v then (old, true) else if v < 85 then (85, false) else (v, false) := by
  simp [clampTemp]

theorem clampPower_of_raise (h : old < v ∨ 3200 < v) : clampPower old v = (old, true, false) := by
  rw [clampPower_eq, if_pos h]

theorem clampPower_of_low (h : v ≤ old) (hv : v < 1150) : clampPower old v = (1150, false, true) := by
  rw [clampPower_eq, if_neg (by omega), if_pos hv]

theorem clampPower_of_lower (h : v ≤ old) (hmax : v ≤ 3200) (hmin : 1150 ≤ v) : clampPower old v = (v, false, false) := by
  rw [clampPower_eq, if_neg (by omega), if_neg (by omega)]

theorem clampTemp_of_raise (h : old < v ∨ 105 < v) : clampTemp old v = (old, true) := by
  rw [clampTemp_eq, if_pos h]

theorem clampTemp_of_low (h : v ≤ old) (hv : v < 85) : clampTemp old v = (85, false) := by
  rw [clampTemp_eq, if_neg (by omega), if_pos hv]

theorem clampTemp_of_lower (h : v ≤ old) (hmax : v ≤ 105) (hmin : 85 ≤ v) : clampTemp old v = (v, false) := by
  rw [clampTemp_eq, if_neg (by omega), if_neg (by omega)]

/-- A write of P_MAX_W is dropped exactly when it raises the clamp. -/
theorem clampPower_dropped_iff : (clampPower old v).2.1 = true ↔ old < v ∨ 3200 < v := by
  rw [clampPower_eq]
  split
  · rename_i hraise
    exact iff_of_true rfl hraise
  · rename_i hkeep
    split <;> exact iff_of_false Bool.false_ne_true hkeep

theorem clampTemp_dropped_iff : (clampTemp old v).2 = true ↔ old < v ∨ 105 < v := by
  rw [clampTemp_eq]
  split
  · rename_i hraise
    exact iff_of_true rfl hraise
  · rename_i hkeep
    split <;> exact iff_of_false Bool.false_ne_true hkeep

theorem clampPower_lt (h : old < 2 ^ 12) : (clampPower old v).1 < 2 ^ 12 := by
  rw [clampPower_eq]
  split
  · exact h
  · split
    · decide
    · dsimp only; omega

theorem clampTemp_lt (h : old < 2 ^ 7) : (clampTemp old v).1 < 2 ^ 7 := by
  rw [clampTemp_eq]
  split
  · exact h
  · split
    · decide
    · dsimp only; omega

end

/-! ## The fields of REF_CLAMP -/

/-- The fields of REF_CLAMP that a write reaches. -/
def clampFlds : List Fld := [Reg.REF_CLAMP.P_FLOORED, Reg.REF_CLAMP.P_MAX_W, Reg.REF_CLAMP.T_MAX_C]

/-- The fields of REF_CLAMP written, with the outcomes of the two clamps, before a drop is recorded. -/
def State.setClamps (s : State) (w : Wr) (p : Nat × Bool × Bool) (c : Nat × Bool) : State :=
  let s := s.fieldWrite w Reg.REF_CLAMP.P_FLOORED
  let s := if p.2.2 then s.wr Reg.REF_CLAMP.P_FLOORED 1 else s
  (s.wr Reg.REF_CLAMP.P_MAX_W p.1).wr Reg.REF_CLAMP.T_MAX_C c.1

section
variable (s : State) (w : Wr) (p : Nat × Bool × Bool) (c : Nat × Bool)

theorem State.setClamps_regsOnly : RegsOnly clampFlds s (s.setClamps w p c) := by
  have hf : RegsOnly clampFlds s (s.fieldWrite w Reg.REF_CLAMP.P_FLOORED) :=
    (s.fieldWrite_regsOnly w (by decide)).mono (by simp [clampFlds])
  unfold State.setClamps
  extract_lets s1 s2
  have h2 : RegsOnly clampFlds s1 s2 := .ite (.wr (by simp [clampFlds]) 1) .refl
  exact ((hf.trans h2).trans (.wr (by simp [clampFlds]) _)).trans (.wr (by simp [clampFlds]) _)

theorem State.setClamps_rd_power : (s.setClamps w p c).rd Reg.REF_CLAMP.P_MAX_W = p.1 % 2 ^ 12 := by
  rw [State.setClamps, State.rd_wr_of_ne _ _ _ _ (by decide), State.rd_wr_self]
  rfl

theorem State.setClamps_rd_temp : (s.setClamps w p c).rd Reg.REF_CLAMP.T_MAX_C = c.1 % 2 ^ 7 := by
  rw [State.setClamps, State.rd_wr_self]
  rfl

theorem State.setClamps_rd_floored (h : p.2.2 = true) : (s.setClamps w p c).rd Reg.REF_CLAMP.P_FLOORED = 1 := by
  rw [State.setClamps, State.rd_wr_of_ne _ _ _ _ (by decide), State.rd_wr_of_ne _ _ _ _ (by decide), if_pos h, State.rd_wr_self]
  rfl

end

/-! ## The write -/

theorem exec_refClampWrite (w : Wr) (s : State) : exec (.refClampWrite w) s = .next (opRefClampWrite w s) := rfl

section
variable (s : State) (v : Nat)

/-- What a host write of `v` leaves in P_MAX_W, whether that part is dropped, and whether it is floored. -/
def State.powerOutcome : Nat × Bool × Bool := clampPower (s.rd Reg.REF_CLAMP.P_MAX_W) (bitsOf v 0 12)

/-- What a host write of `v` leaves in T_MAX_C, and whether that part is dropped. -/
def State.tempOutcome : Nat × Bool := clampTemp (s.rd Reg.REF_CLAMP.T_MAX_C) (bitsOf v 16 7)

/-- REF_CLAMP's fields as a host write of `v` leaves them. -/
def State.clampsWritten : State := s.setClamps (hostWrite v) (s.powerOutcome v) (s.tempOutcome v)

variable {s}

/-- A host write of REF_CLAMP, once its block answers: the fields written, and one violation when a clamp drops its part. -/
theorem opRefClampWrite_host (hv : s.valid = true) : opRefClampWrite (hostWrite v) s =
    if (s.powerOutcome v).2.1 || (s.tempOutcome v).2 then
      (s.clampsWritten v).lockViolation Src.host.code 0x1400118 (hostWrite v).dropped
    else s.clampsWritten v := by
  have hguard : (s.unreachable (hostWrite v).src Reg.REF_CLAMP.P_MAX_W.off || (hostWrite v).src != .host ||
      !(hostWrite v).covers Reg.REF_CLAMP.P_MAX_W) = false := by
    rw [s.unreachable_of_valid _ _ hv]; rfl
  have hp : (hostWrite v).field Reg.REF_CLAMP.P_MAX_W = bitsOf v 0 12 := hostWrite_field v _ (by decide)
  have hc : (hostWrite v).field Reg.REF_CLAMP.T_MAX_C = bitsOf v 16 7 := hostWrite_field v _ (by decide)
  simp only [opRefClampWrite, hguard, hp, hc]
  rfl

theorem opRefClampWrite_host_dropped (hv : s.valid = true)
    (h : (s.powerOutcome v).2.1 = true ∨ (s.tempOutcome v).2 = true) : opRefClampWrite (hostWrite v) s =
      (s.clampsWritten v).lockViolation Src.host.code 0x1400118 (hostWrite v).dropped := by
  rw [opRefClampWrite_host v hv, if_pos (by simpa using h)]

theorem opRefClampWrite_host_kept (hv : s.valid = true)
    (hp : ¬ (s.powerOutcome v).2.1 = true) (hc : ¬ (s.tempOutcome v).2 = true) :
    opRefClampWrite (hostWrite v) s = s.clampsWritten v := by
  rw [opRefClampWrite_host v hv, if_neg (by simp [hp, hc])]

/-- Recording a drop leaves every field that no lock violation changes. -/
theorem opRefClampWrite_host_rd (hv : s.valid = true) (g : Fld) (hg : ∀ f ∈ lockFlds, g.key ≠ f.key) :
    (opRefClampWrite (hostWrite v) s).rd g = (s.clampsWritten v).rd g := by
  rw [opRefClampWrite_host v hv]
  exact RegsOnly.ite (State.lockViolation_regsOnly _ _ _ _) .refl g hg

theorem opRefClampWrite_host_power (hv : s.valid = true) (h : s.rd Reg.REF_CLAMP.P_MAX_W < 2 ^ 12) :
    (opRefClampWrite (hostWrite v) s).rd Reg.REF_CLAMP.P_MAX_W = (s.powerOutcome v).1 := by
  rw [opRefClampWrite_host_rd v hv _ (by decide), State.clampsWritten, State.setClamps_rd_power]
  exact Nat.mod_eq_of_lt (clampPower_lt h)

theorem opRefClampWrite_host_temp (hv : s.valid = true) (h : s.rd Reg.REF_CLAMP.T_MAX_C < 2 ^ 7) :
    (opRefClampWrite (hostWrite v) s).rd Reg.REF_CLAMP.T_MAX_C = (s.tempOutcome v).1 := by
  rw [opRefClampWrite_host_rd v hv _ (by decide), State.clampsWritten, State.setClamps_rd_temp]
  exact Nat.mod_eq_of_lt (clampTemp_lt h)

theorem opRefClampWrite_host_floored (hv : s.valid = true) (h : (s.powerOutcome v).2.2 = true) :
    (opRefClampWrite (hostWrite v) s).rd Reg.REF_CLAMP.P_FLOORED = 1 := by
  rw [opRefClampWrite_host_rd v hv _ (by decide), State.clampsWritten, State.setClamps_rd_floored _ _ _ _ h]

theorem State.clampsWritten_violCount :
    (s.clampsWritten v).rd Reg.LOCK_STATUS.VIOL_COUNT = s.rd Reg.LOCK_STATUS.VIOL_COUNT :=
  s.setClamps_regsOnly _ _ _ _ (by decide)

end

/-- Settles O17: each clamp by its outcome, and the one record of a drop when either part is dropped (log entry 27). -/
theorem clampsAreLoweredOnly : Obligations.ClampsAreLoweredOnly := by
  intro v s hv p p0 c c0 hp0 hc0
  have hp : s.powerOutcome v = clampPower p0 p := rfl
  have hc : s.tempOutcome v = clampTemp c0 c := rfl
  have power := hp ▸ opRefClampWrite_host_power v hv hp0
  have temp := hc ▸ opRefClampWrite_host_temp v hv hc0
  refine ⟨_, exec_refClampWrite _ s, fun h => ?pRaise, fun h hmax hmin => ?pLower, fun h hlow => ⟨?pLow, ?pFloored⟩,
    fun h => ?cRaise, fun h hmax hmin => ?cLower, fun h hlow => ?cLow, fun h => ?dropped, fun h hmax h' hmax' => ?kept⟩
  case pRaise => rw [power, clampPower_of_raise h]
  case pLower => rw [power, clampPower_of_lower h hmax hmin]
  case pLow => rw [power, clampPower_of_low h hlow]
  case pFloored => exact opRefClampWrite_host_floored v hv (by rw [hp, clampPower_of_low h hlow])
  case cRaise => rw [temp, clampTemp_of_raise h]
  case cLower => rw [temp, clampTemp_of_lower h hmax hmin]
  case cLow => rw [temp, clampTemp_of_low h hlow]
  case dropped =>
    have hdrop : (s.powerOutcome v).2.1 = true ∨ (s.tempOutcome v).2 = true := by
      rw [hp, hc, clampPower_dropped_iff, clampTemp_dropped_iff, or_assoc]
      exact h
    rw [opRefClampWrite_host_dropped v hv hdrop]
    exact ⟨State.lockViolation_rd_violation _ _ _ _, State.lockViolation_rd_addr _ _ _ _,
      (State.lockViolation_rd_count _ _ _ _).trans (by rw [State.clampsWritten_violCount])⟩
  case kept =>
    rw [opRefClampWrite_host_kept v hv (by rw [hp, clampPower_dropped_iff]; omega) (by rw [hc, clampTemp_dropped_iff]; omega)]
    exact State.clampsWritten_violCount v

end Sys2Proof.Machine
end
